-- ==== Sys2Proof/Word.lean ====
section
/-!
DEFINITION. The words of the block: bytes, 16-bit frames, and the plainest facts about a byte that the
parameter constraints of 00_scope.md R7 speak of. All values are unsigned (R8).
-/

namespace Sys2Proof

/-- A byte: a shadow register, a payload, a mode, an operand (00_scope.md R8). -/
abbrev Byte := BitVec 8

/-- A 16-bit wire frame (30_encoding.md R44). -/
abbrev FrameWord := BitVec 16

/-- A line identifier. The spec calls it opaque (10_state.md R11); in the request word it takes a byte
(30_encoding.md R55). DESIGN CHOICE, log 10. -/
abbrev LineId := BitVec 8

/-- Exactly one bit of the byte is set. -/
def Byte.isSingleBit (b : Byte) : Bool :=
  (List.range 8).any fun i => b == (1#8 <<< i)

/-- How many bits of the byte are set. -/
def Byte.bitCount (b : Byte) : Nat :=
  ((List.range 8).filter fun i => b.getLsbD i).length

end Sys2Proof
end

