-- ==== Sys2Proof/Config.lean ====
section
/-!
DEFINITION. What an implementation fixes: the parameter record of 00_scope.md R5 and R6 with its default
values, the constraints R7 puts on it, and the free values of 93_implementation_defined.md U1.
-/

namespace Sys2Proof

/-- How `createChar` brings the chip's address counter home (00_scope.md R6, 46_custom_glyph.md R107). -/
inductive CreateCharTail where
  /-- send RETURN_HOME -/
  | home
  /-- send SET_DDRAM_ADDR with address 0 -/
  | ddram0
  deriving DecidableEq, Repr

/-- The parameter record: every number of the spec is a named parameter (00_scope.md, section 3). The first
group is R5 (the source states the value), the second R6 (it does not). -/
structure Params where
  /-- `T_STB`: wait after the strobe falls at frame begin and rises at frame end -/
  tStb : Nat
  /-- `T_HALF`: clock half-period -/
  tHalf : Nat
  /-- `T_POWERUP`: bring-up wait of `begin` -/
  tPowerup : Nat
  /-- `T_CLEAR`: settle wait after CLEAR_DISPLAY -/
  tClear : Nat
  /-- `T_CMD`: settle wait after each register command of `begin` -/
  tCmd : Nat
  opClear : Byte
  opHome : Byte
  /-- `ROW1_OFFSET`: DDRAM address of column 0 of the second row -/
  row1Offset : Byte
  /-- `LOC_MASK`: mask applied to a glyph location -/
  locMask : Byte
  modeCmd : Byte
  modeData : Byte
  opEntry : Byte
  opCtrl : Byte
  opFunc : Byte
  opCgram : Byte
  opDdram : Byte
  ctrlDisplay : Byte
  ctrlCursor : Byte
  ctrlBlink : Byte
  entryInc : Byte
  entryShift : Byte
  funcIfwidth : Byte
  func2Line : Byte
  brtMask : Byte
  brtCode100 : Byte
  brtCode75 : Byte
  brtCode50 : Byte
  brtCode25 : Byte
  cgramShift : Nat
  ctrlInit : Byte
  entryInit : Byte
  funcReset : Byte
  brightnessMasking : Bool
  createCharTail : CreateCharTail
  deriving DecidableEq, Repr

/-- `FRAME_BITS` (R5): bits per frame. -/
def Config.frameBits : Nat := 16

/-- `GLYPH_ROWS` (R5): bytes per glyph. -/
def Config.glyphRows : Nat := 8

/-- The default parameter record: R5's normative values and R6's default column. The R6 values are the spec's
own choice from general knowledge of the chip family (decision D4). PRESUMED, log 1. -/
def Params.default : Params where
  tStb := 1
  tHalf := 2
  tPowerup := 50000
  tClear := 2000
  tCmd := 4500
  opClear := 0x01
  opHome := 0x02
  row1Offset := 0x40
  locMask := 0x07
  modeCmd := 0xF8
  modeData := 0xFA
  opEntry := 0x04
  opCtrl := 0x08
  opFunc := 0x20
  opCgram := 0x40
  opDdram := 0x80
  ctrlDisplay := 0x04
  ctrlCursor := 0x02
  ctrlBlink := 0x01
  entryInc := 0x02
  entryShift := 0x01
  funcIfwidth := 0x10
  func2Line := 0x08
  brtMask := 0x03
  brtCode100 := 0x00
  brtCode75 := 0x01
  brtCode50 := 0x02
  brtCode25 := 0x03
  cgramShift := 3
  ctrlInit := 0x04
  entryInit := 0x02
  funcReset := 0x10
  brightnessMasking := false
  createCharTail := .home

/-- Every bit of CTRL that a field of 10_state.md R14 names. -/
def Params.ctrlBits (P : Params) : Byte := P.ctrlDisplay ||| P.ctrlCursor ||| P.ctrlBlink

/-- Every bit of ENTRY that a field of 10_state.md R15 names. -/
def Params.entryBits (P : Params) : Byte := P.entryInc ||| P.entryShift

/-- Every bit of FUNC that a field of 10_state.md R13 names. -/
def Params.funcBits (P : Params) : Byte := P.funcIfwidth ||| P.func2Line ||| P.brtMask

/-- The constraints of 00_scope.md R7, item by item. The clauses whose name ends in `Named` and
`resetIfwidth` are not in R7's words: they are what "bits not named in a field table are never set" and
"`IFW` set" (10_state.md, section 4 and R13) ask of the initial values. DEDUCED, log 14. -/
structure Params.Valid (P : Params) : Prop where
  /-- item 1, first half -/
  modesDiffer : P.modeCmd ≠ P.modeData
  /-- item 1, second half: the common synchronisation part of the two sentinels -/
  modesShareTop : ∃ k, 1 ≤ k ∧ k ≤ 7 ∧ P.modeCmd >>> k = P.modeData >>> k
  /-- item 2 -/
  ctrlSingle : P.ctrlDisplay.isSingleBit ∧ P.ctrlCursor.isSingleBit ∧ P.ctrlBlink.isSingleBit
  ctrlDistinct : P.ctrlDisplay ≠ P.ctrlCursor ∧ P.ctrlDisplay ≠ P.ctrlBlink ∧ P.ctrlCursor ≠ P.ctrlBlink
  /-- item 3 -/
  entrySingle : P.entryInc.isSingleBit ∧ P.entryShift.isSingleBit
  entryDistinct : P.entryInc ≠ P.entryShift
  /-- item 4 -/
  twoLineSingle : P.func2Line.isSingleBit
  brtMaskTwo : P.brtMask.bitCount = 2
  brtCodesInMask : P.brtCode100 &&& ~~~P.brtMask = 0 ∧ P.brtCode75 &&& ~~~P.brtMask = 0 ∧
    P.brtCode50 &&& ~~~P.brtMask = 0 ∧ P.brtCode25 &&& ~~~P.brtMask = 0
  brtCodesDistinct : [P.brtCode100, P.brtCode75, P.brtCode50, P.brtCode25].Nodup
  funcFieldsDisjoint : P.func2Line &&& P.brtMask = 0 ∧ P.func2Line &&& P.funcIfwidth = 0 ∧
    P.brtMask &&& P.funcIfwidth = 0
  /-- item 5 -/
  resetOneLine : P.funcReset &&& P.func2Line = 0
  resetFullBright : P.funcReset &&& P.brtMask = P.brtCode100
  /-- item 6: opcode bits and register bits do not overlap -/
  opcodesDisjoint : P.opCtrl &&& P.ctrlBits = 0 ∧ P.opEntry &&& P.entryBits = 0 ∧ P.opFunc &&& P.funcBits = 0
  /-- item 6: each opcode is a single-bit mask -/
  opcodesSingle : P.opClear.isSingleBit ∧ P.opHome.isSingleBit ∧ P.opEntry.isSingleBit ∧
    P.opCtrl.isSingleBit ∧ P.opFunc.isSingleBit ∧ P.opCgram.isSingleBit ∧ P.opDdram.isSingleBit
  /-- item 6: the order of the opcodes -/
  opcodesOrdered : P.opClear < P.opHome ∧ P.opHome < P.opEntry ∧ P.opEntry < P.opCtrl ∧
    P.opCtrl < P.opFunc ∧ P.opFunc < P.opCgram ∧ P.opCgram < P.opDdram
  /-- item 6: each opcode is the highest set bit of every payload of its type -/
  opcodesHighest : P.ctrlBits < P.opCtrl ∧ P.entryBits < P.opEntry ∧ P.funcBits < P.opFunc
  /-- item 6 for SET_DDRAM_ADDR, whose address part may be any byte (44_cursor_position.md R99) -/
  ddramHighest : P.opDdram = 0x80#8
  /-- item 7 -/
  cgramFits : P.locMask.toNat <<< P.cgramShift < P.opCgram.toNat
  /-- CTRL_INIT sets only named bits (R14) -/
  ctrlInitNamed : P.ctrlInit &&& ~~~P.ctrlBits = 0
  /-- ENTRY_INIT sets only named bits (R15) -/
  entryInitNamed : P.entryInit &&& ~~~P.entryBits = 0
  /-- FUNC_RESET sets only named bits (R13) -/
  funcResetNamed : P.funcReset &&& ~~~P.funcBits = 0
  /-- the interface width is set at reset (R13) -/
  resetIfwidth : P.funcReset &&& P.funcIfwidth = P.funcIfwidth

/-- The unspecified line levels (93_implementation_defined.md U1: "each level is an unknown Boolean; the rules
hold for every value"): the n-th draw. It has no body, so nothing can be proved of it. DESIGN CHOICE, log 3. -/
opaque Config.freeLevel : Nat → Bool

end Sys2Proof
end

