-- ==== Sys2Proof/Syntax.lean ====
section
/-!
DEFINITION. The instructions: one constructor per row of spec/opcode_table.json, in the table's order, and the
two kinds of code an instruction is carried in: a request of the host (format HOSTREQ20) and a call inside
the block (formats FRAME16 and INTERNAL).
-/

namespace Sys2Proof

/-- The instructions. A frame type carries its operand field as the byte that stands under the opcode bit: the
whole register value for the register commands (30_encoding.md R48), the address for the address commands
(log 21). A host operation carries its operands (30_encoding.md R54). -/
inductive Instr where
  -- the eight frame types, 41_command_frames.md R75 to R82
  | clearDisplay
  | returnHome
  | entryModeSet (entry : Byte)
  | displayControl (ctrl : Byte)
  | functionSet (func : Byte)
  | setCgramAddr (addr : Byte)
  | setDdramAddr (addr : Byte)
  | dataWrite (v : Byte)
  -- the fourteen host operations, 30_encoding.md R54
  | construct (sck stb sda : LineId)
  | begin (cols rows : Byte)
  | clear
  | home
  | display
  | noDisplay
  | cursor
  | noCursor
  | blink
  | noBlink
  | setCursor (col row : Byte)
  | setBrightness (level : Byte)
  | createChar (location : Byte) (glyph : List Byte)
  | write (byte : Byte)
  -- the three internal primitives, 30_encoding.md R57
  | transmit (mode payload : Byte)
  | command (v : Byte)
  | data (v : Byte)
  deriving DecidableEq, Repr

/-- The public operation surface: the fourteen host operations (30_encoding.md R54). The frame types and the
internal primitives are not on it (R57). -/
def Instr.isHostOp : Instr → Bool
  | .clearDisplay => false
  | .returnHome => false
  | .entryModeSet _ => false
  | .displayControl _ => false
  | .functionSet _ => false
  | .setCgramAddr _ => false
  | .setDdramAddr _ => false
  | .dataWrite _ => false
  | .construct _ _ _ => true
  | .begin _ _ => true
  | .clear => true
  | .home => true
  | .display => true
  | .noDisplay => true
  | .cursor => true
  | .noCursor => true
  | .blink => true
  | .noBlink => true
  | .setCursor _ _ => true
  | .setBrightness _ => true
  | .createChar _ _ => true
  | .write _ => true
  | .transmit _ _ => false
  | .command _ => false
  | .data _ => false

/-- A request of the host: the 20-bit request word `{op[3:0], a[7:0], b[7:0]}` and the 64-bit side operand
(30_encoding.md R55). The side operand holds the glyph of `createChar`, and the third line identifier of
`construct` in its low byte (log 10). -/
structure Request where
  word : BitVec 20
  side : BitVec 64
  deriving DecidableEq, Repr

/-- A call of the Transport inside the block: one of the three entry points of 30_encoding.md R57 by name, or a
bare 16-bit frame, whose row the decoder finds (log 8). -/
inductive Call where
  | frame (w : FrameWord)
  | transmit (w : FrameWord)
  | command (v : Byte)
  | data (v : Byte)
  deriving DecidableEq, Repr

/-- What an instruction is encoded as. -/
inductive Code where
  | request (r : Request)
  | call (c : Call)
  deriving DecidableEq, Repr

/-- Why the decoder turns a request away. -/
inductive Reject where
  /-- select code 14 or 15 (30_encoding.md R55) -/
  | noSuchOperation (op : BitVec 4)
  deriving DecidableEq, Repr

end Sys2Proof
end

