-- ==== Sys2Proof/WellFormed.lean ====
section
/-!
DEFINITION. Which instructions an encoding exists for. A frame's operand field stands under its opcode bit
(00_scope.md R7 item 6, 30_encoding.md R46), and a glyph has exactly eight bytes (46_custom_glyph.md R105).
Every other operand is a byte and takes every value (30_encoding.md R56).
-/

namespace Sys2Proof

/-- The operand field `v` lies below the opcode bit `op`. -/
def underOpcode (op v : Byte) : Bool := decide (v < op)

/-- The instruction is well formed under the parameters `P`. -/
def Instr.wf (P : Params) : Instr → Bool
  | .clearDisplay => true
  | .returnHome => true
  | .entryModeSet entry => underOpcode P.opEntry entry
  | .displayControl ctrl => underOpcode P.opCtrl ctrl
  | .functionSet func => underOpcode P.opFunc func
  | .setCgramAddr addr => underOpcode P.opCgram addr
  | .setDdramAddr addr => underOpcode P.opDdram addr
  | .dataWrite _ => true
  | .construct _ _ _ => true
  | .begin _ _ => true
  | .clear => true
  | .home => true
  | .display => true
  | .noDisplay => true
  | .cursor => true
  | .noCursor => true
  | .blink => true
  | .noBlink => true
  | .setCursor _ _ => true
  | .setBrightness _ => true
  | .createChar _ glyph => decide (glyph.length = Config.glyphRows)
  | .write _ => true
  | .transmit _ _ => true
  | .command _ => true
  | .data _ => true

end Sys2Proof
end

