-- ==== Sys2Proof/Decode.lean ====
section
/-!
DEFINITION. The frame and its fields (30_encoding.md R44), the decoder of frames (R51), of the host's
requests (R55) and of internal calls, and after it the encoder, written from the same tables (R46, R55).
-/

namespace Sys2Proof

/-! ## The frame -/

/-- `(zext_16(mode) << 8) | zext_16(payload)` (30_encoding.md R44, 40_transport.md R64). -/
def frameWord (mode payload : Byte) : FrameWord :=
  (mode.setWidth 16 <<< 8) ||| payload.setWidth 16

/-- `frame[15:8]` (R44). -/
def frameMode (w : FrameWord) : Byte := w.extractLsb' 8 8

/-- `frame[7:0]` (R44). -/
def framePayload (w : FrameWord) : Byte := w.extractLsb' 0 8

/-- The payload of a command that carries an operand field: the opcode OR the field (30_encoding.md R46, R48). -/
def commandPayload (op field : Byte) : Byte := op ||| field

/-! ## Decoding -/

/-- `op`, a single-bit mask, is the highest set bit of `v` (30_encoding.md R51). -/
def highestBit (op v : Byte) : Bool :=
  decide (op.toNat ≤ v.toNat) && decide (v.toNat < 2 * op.toNat)

/-- The type of a command frame by the highest set bit of its payload, the two lowest types matched exactly
(30_encoding.md R51). A payload R51 leaves over is of no frame type: it is the row `command` (log 8). -/
def decodeCommand (P : Params) (v : Byte) : Instr :=
  if highestBit P.opDdram v then .setDdramAddr (v &&& ~~~P.opDdram)
  else if highestBit P.opCgram v then .setCgramAddr (v &&& ~~~P.opCgram)
  else if highestBit P.opFunc v then .functionSet (v &&& ~~~P.opFunc)
  else if highestBit P.opCtrl v then .displayControl (v &&& ~~~P.opCtrl)
  else if highestBit P.opEntry v then .entryModeSet (v &&& ~~~P.opEntry)
  else if v = P.opHome then .returnHome
  else if v = P.opClear then .clearDisplay
  else .command v

/-- The row a bare 16-bit word belongs to: a command frame by R51, a data frame, and any other mode byte the row
`transmit` (log 8). Total: every word decodes. -/
def decodeFrame (P : Params) (w : FrameWord) : Instr :=
  if frameMode w = P.modeCmd then decodeCommand P (framePayload w)
  else if frameMode w = P.modeData then .dataWrite (framePayload w)
  else .transmit (frameMode w) (framePayload w)

/-- The row of an internal call (30_encoding.md R57). -/
def decodeCall (P : Params) : Call → Instr
  | .frame w => decodeFrame P w
  | .transmit w => .transmit (frameMode w) (framePayload w)
  | .command v => .command v
  | .data v => .data v

/-- The select code `op[3:0]` of a request word (30_encoding.md R55). -/
def Request.op (r : Request) : BitVec 4 := r.word.extractLsb' 16 4

/-- The first operand `a[7:0]` (R55). -/
def Request.a (r : Request) : Byte := r.word.extractLsb' 8 8

/-- The second operand `b[7:0]` (R55). -/
def Request.b (r : Request) : Byte := r.word.extractLsb' 0 8

/-- The third line identifier of `construct`: the side operand's low byte (log 10). -/
def Request.third (r : Request) : LineId := r.side.extractLsb' 0 8

/-- `glyph[i] = g[8*i+7 : 8*i]` (R55), the lowest byte first. -/
def glyphOfSide : Nat → BitVec 64 → List Byte
  | 0, _ => []
  | n + 1, g => g.extractLsb' 0 8 :: glyphOfSide n (g >>> 8)

/-- The host operation a request selects; codes 14 and 15 select nothing (30_encoding.md R54, R55). Operand fields
an operation does not use are ignored (opcode table, notes of the HOSTREQ20 rows). -/
def decodeRequest (r : Request) : Except Reject Instr :=
  match r.op.toNat with
  | 0 => .ok (.construct r.a r.b r.third)
  | 1 => .ok (.begin r.a r.b)
  | 2 => .ok .clear
  | 3 => .ok .home
  | 4 => .ok .display
  | 5 => .ok .noDisplay
  | 6 => .ok .cursor
  | 7 => .ok .noCursor
  | 8 => .ok .blink
  | 9 => .ok .noBlink
  | 10 => .ok (.setCursor r.a r.b)
  | 11 => .ok (.setBrightness r.a)
  | 12 => .ok (.createChar r.a (glyphOfSide Config.glyphRows r.side))
  | 13 => .ok (.write r.a)
  | _ => .error (.noSuchOperation r.op)

/-- The decoder. -/
def decode (P : Params) : Code → Except Reject Instr
  | .request r => decodeRequest r
  | .call c => .ok (decodeCall P c)

/-! ## The opcode table's numbering -/

/-- The request whose bits are `w`, bit 0 the least significant bit of the request word: the word in bits 19:0
and the side operand from the next whole byte, bit 24, on (log 10). -/
def requestOfBits (w : Nat) : Request :=
  ⟨BitVec.ofNat 20 w, BitVec.ofNat 64 (w / 2 ^ 24)⟩

/-- The code whose bits are `w` in the opcode table's numbering: the rows of at most 16 bits are frames, the others
requests. Bits from `nbits` on are 0. -/
def codeOfTableWord (nbits w : Nat) : Code :=
  if nbits ≤ 16 then .call (.frame (BitVec.ofNat 16 (w % 2 ^ nbits)))
  else .request (requestOfBits (w % 2 ^ nbits))

/-- The instruction the decoder reads from a word numbered as spec/opcode_table.json numbers it, under the default
parameters (the table's own, 00_scope.md R6). -/
def decodeTableWord (nbits w : Nat) : Option Instr :=
  match decode Params.default (codeOfTableWord nbits w) with
  | .ok i => some i
  | .error _ => none

/-! ## Encoding -/

/-- The request word `{op[3:0], a[7:0], b[7:0]}` (30_encoding.md R55). -/
def requestWord (op : BitVec 4) (a b : Byte) : BitVec 20 :=
  (op.setWidth 20 <<< 16) ||| (a.setWidth 20 <<< 8) ||| b.setWidth 20

/-- The glyph as the side operand `g[63:0]`, `glyph[0]` in bits 7:0 (R55). -/
def sideOfGlyph : List Byte → BitVec 64
  | [] => 0
  | v :: vs => v.setWidth 64 ||| (sideOfGlyph vs <<< 8)

/-- The encoder. Unused operand fields are 0 (95_test_vectors.md, section L3). -/
def encode (P : Params) : Instr → Code
  | .clearDisplay => .call (.frame (frameWord P.modeCmd P.opClear))
  | .returnHome => .call (.frame (frameWord P.modeCmd P.opHome))
  | .entryModeSet entry => .call (.frame (frameWord P.modeCmd (commandPayload P.opEntry entry)))
  | .displayControl ctrl => .call (.frame (frameWord P.modeCmd (commandPayload P.opCtrl ctrl)))
  | .functionSet func => .call (.frame (frameWord P.modeCmd (commandPayload P.opFunc func)))
  | .setCgramAddr addr => .call (.frame (frameWord P.modeCmd (commandPayload P.opCgram addr)))
  | .setDdramAddr addr => .call (.frame (frameWord P.modeCmd (commandPayload P.opDdram addr)))
  | .dataWrite v => .call (.frame (frameWord P.modeData v))
  | .construct sck stb sda => .request ⟨requestWord 0 sck stb, sda.setWidth 64⟩
  | .begin cols rows => .request ⟨requestWord 1 cols rows, 0⟩
  | .clear => .request ⟨requestWord 2 0 0, 0⟩
  | .home => .request ⟨requestWord 3 0 0, 0⟩
  | .display => .request ⟨requestWord 4 0 0, 0⟩
  | .noDisplay => .request ⟨requestWord 5 0 0, 0⟩
  | .cursor => .request ⟨requestWord 6 0 0, 0⟩
  | .noCursor => .request ⟨requestWord 7 0 0, 0⟩
  | .blink => .request ⟨requestWord 8 0 0, 0⟩
  | .noBlink => .request ⟨requestWord 9 0 0, 0⟩
  | .setCursor col row => .request ⟨requestWord 10 col row, 0⟩
  | .setBrightness level => .request ⟨requestWord 11 level 0, 0⟩
  | .createChar location glyph => .request ⟨requestWord 12 location 0, sideOfGlyph glyph⟩
  | .write byte => .request ⟨requestWord 13 byte 0, 0⟩
  | .transmit mode payload => .call (.transmit (frameWord mode payload))
  | .command v => .call (.command v)
  | .data v => .call (.data v)

/-- The frame a call puts on the wire: `command(v)` is `transmit(MODE_CMD, v)`, `data(v)` is
`transmit(MODE_DATA, v)` (40_transport.md R73). -/
def callWord (P : Params) : Call → FrameWord
  | .frame w => w
  | .transmit w => w
  | .command v => frameWord P.modeCmd v
  | .data v => frameWord P.modeData v

/-- The frame an instruction of the block's inside puts on the wire; a host operation is none (R57). -/
def instrWord (P : Params) (i : Instr) : Option FrameWord :=
  match encode P i with
  | .request _ => none
  | .call c => some (callWord P c)

end Sys2Proof
end

