-- ==== Sys2Proof/Machine/State.lean ====
section
/-!
DEFINITION. The state of the block (10_state.md R10), its events (00_scope.md R9), the reasons a step can stop
(60_exceptions.md R113, R118), and the state after reset (10_state.md R25).
-/

namespace Sys2Proof.Machine

/-- The three lines (10_state.md R11): serial clock, strobe, serial data. -/
inductive Line where
  | sck
  | stb
  | sda
  deriving DecidableEq, Repr

/-- The three capabilities of the collaborator; each call is one event (00_scope.md R9). A level is `false` for
low and `true` for high. -/
inductive Event where
  /-- `Cfg(line)`: make the line an output -/
  | cfg (line : Line)
  /-- `Set(line, level)`: drive the line -/
  | set (line : Line) (level : Bool)
  /-- `Wait(n)`: block for at least `n` units -/
  | wait (n : Nat)
  deriving DecidableEq, Repr

/-- The pin binding `PINS` (10_state.md R11). -/
structure Pins where
  sck : LineId
  stb : LineId
  sda : LineId
  deriving DecidableEq, Repr

/-- The line levels `LVL` (10_state.md R12). -/
structure Levels where
  sck : Bool
  stb : Bool
  sda : Bool
  deriving DecidableEq, Repr

/-- "8 bits or unwritten" (10_state.md R10, the types of CTRL, ENTRY and LINES). `unwritten` is the spec's own
value of the register between `construct` and the first `begin` (R25, 90_conflicts.md C2; log 4). -/
inductive Reg8 where
  | unwritten
  | val (v : Byte)
  deriving DecidableEq, Repr

/-- The single actions of the sequencer: the three event primitives, the writes of the transient registers FR and
BITIDX inside `transmit` (40_transport.md R64, R67), and the return of a value to the host (47_write.md R109). -/
inductive Prim where
  | cfg (line : Line)
  | set (line : Line) (level : Bool)
  | wait (n : Nat)
  /-- `FR <- w` -/
  | load (w : FrameWord)
  /-- step 3a for bit `i`: `BITIDX <- i; Set(SDA, FR[i])` -/
  | bit (i : BitVec 4)
  /-- the frame is over: FR and BITIDX hold no value -/
  | drop
  /-- `return n` -/
  | ret (n : Nat)
  deriving DecidableEq, Repr

/-- One step of an operation's fixed sequence: a single action, or a call of the Transport (30_encoding.md R57). -/
inductive SeqStep where
  | prim (p : Prim)
  | call (c : Call)
  deriving DecidableEq, Repr

/-- The block raises no exception of any kind (60_exceptions.md R113): the table of exception causes is empty, and
so is this type. Nothing raises a fault. -/
inductive Fault where
  deriving DecidableEq, Repr

/-- Where the model has no meaning for a request: the closed list of 60_exceptions.md R118. -/
inductive Refusal where
  /-- an instruction with no meaning yet; raised by no arm of this model. Safe. -/
  | notModelled (mnemonic : String)
  /-- a toggle before the first `begin`; raised by the six toggles, as the spec states (43_toggles.md R90, 60_exceptions.md
  R118). Safe. -/
  | ctrlUnwritten
  /-- two line identifiers equal; raised by `construct` (42_init.md R85). Safe. -/
  | pinsNotDistinct
  /-- select code 14 or 15; raised by the step's decoding (30_encoding.md R55). Safe. -/
  | noSuchOperation (op : BitVec 4)
  /-- a host operation while another is running; raised by every host operation when the sequencer is not idle
  (70_reset_and_hazards.md R136). Safe. -/
  | reentered
  /-- an operation with no instance; raised by everything but `construct`. Safe. -/
  | notConstructed
  /-- a glyph of other than eight bytes; raised by `createChar`. Safe. -/
  | glyphLength
  deriving DecidableEq, Repr

/-- The state (10_state.md R10). -/
structure State where
  /-- the parameter record, written by no step (00_scope.md R5, R6; log 1) -/
  cfg : Params
  /-- PINS (R11); `none` when no instance has been constructed (60_exceptions.md R118; log 5) -/
  pins : Option Pins
  /-- LVL (R12) -/
  lvl : Levels
  /-- FUNC (R13) -/
  func : Byte
  /-- CTRL (R14) -/
  ctrl : Reg8
  /-- ENTRY (R15) -/
  entry : Reg8
  /-- LINES (R16) -/
  lines : Reg8
  /-- FR (R18), transient -/
  fr : Option FrameWord
  /-- BITIDX (R19), transient -/
  bitidx : Option (BitVec 4)
  /-- the sequencer position (R17): the steps the running operation has still to make; `[]` is idle -/
  seq : List SeqStep
  /-- TRACE (R22) -/
  trace : List Event
  /-- the values returned to the host since `construct` (R10, 47_write.md R109; log 12) -/
  returned : List Nat
  /-- the operations the host has still to issue (95_test_vectors.md L3; log 7) -/
  program : List Request
  /-- `true`: one transition per sequencer step; `false`: one per operation (decision D2; log 6) -/
  stepwise : Bool
  /-- how many free levels have been drawn (log 3) -/
  fresh : Nat
  deriving DecidableEq, Repr

/-- Before `construct`: there is no instance (60_exceptions.md R118 `NotConstructed`). The registers' values are
read by nothing there (log 5). -/
def State.noInstance : State where
  cfg := Params.default
  pins := none
  lvl := ⟨Config.freeLevel 0, Config.freeLevel 1, Config.freeLevel 2⟩
  func := Params.default.funcReset
  ctrl := .unwritten
  entry := .unwritten
  lines := .unwritten
  fr := none
  bitidx := none
  seq := []
  trace := []
  returned := []
  program := []
  stepwise := false
  fresh := 3

/-- After reset, which is `construct` (70_reset_and_hazards.md R129): the table of 10_state.md R25. The three line
identifiers are those of the spec's example `construct(2, 3, 4)`. DESIGN CHOICE, log 2. -/
def State.reset : State where
  cfg := Params.default
  pins := some ⟨2, 3, 4⟩
  lvl := ⟨Config.freeLevel 3, Config.freeLevel 4, Config.freeLevel 5⟩
  func := Params.default.funcReset
  ctrl := .unwritten
  entry := .unwritten
  lines := .unwritten
  fr := none
  bitidx := none
  seq := []
  trace := [.cfg .sck, .cfg .stb, .cfg .sda]
  returned := []
  program := []
  stepwise := false
  fresh := 6

end Sys2Proof.Machine
end

