-- ==== Sys2Proof/Machine/Flags.lean ====
section
/-!
DEFINITION. The flag bits of the shadow registers and how operations change them (10_state.md R27). The block
has no status flags (R20); these are the feature bits of FUNC and CTRL.
-/

namespace Sys2Proof.Machine

/-- Set the bits of `mask` (43_toggles.md R90). -/
def setFlag (reg mask : Byte) : Byte := reg ||| mask

/-- Clear the bits of `mask` (43_toggles.md R90). -/
def clearFlag (reg mask : Byte) : Byte := reg &&& ~~~mask

/-- `if LINES > 1: FUNC <- FUNC | FUNC_2LINE` (42_init.md R86, R87). -/
def withLineCount (P : Params) (rows func : Byte) : Byte :=
  if 1 < rows.toNat then setFlag func P.func2Line else func

/-- FUNC after `setBrightness`, `code` the level's code if it is recognised: masked first only under
`BRIGHTNESS_MASKING`, unchanged for any other level (45_brightness.md R101, R102, R104). -/
def withBrightness (P : Params) (code : Option Byte) (func : Byte) : Byte :=
  match code with
  | none => func
  | some c => setFlag (if P.brightnessMasking then clearFlag func P.brtMask else func) c

end Sys2Proof.Machine
end

