-- ==== Sys2Proof/Machine/Operands.lean ====
section
/-!
DEFINITION. Operand assembly (30_encoding.md, section 3): the payload of a register command, the DDRAM and
CGRAM addresses, the brightness code. Arithmetic as 49_laws_and_control.md R151 gives it.
-/

namespace Sys2Proof.Machine

/-- The payload of a register command: the opcode OR the whole shadow register (30_encoding.md R48). -/
def registerPayload (op reg : Byte) : Byte := commandPayload op reg

/-- `rowoff`: `ROW1_OFFSET` for every row above zero (30_encoding.md R49). -/
def rowOffset (P : Params) (row : Byte) : Byte :=
  if row = 0 then 0 else P.row1Offset

/-- `addr = col + rowoff`, a natural number, with no bound check (30_encoding.md R49, 44_cursor_position.md R100). -/
def ddramAddress (P : Params) (col row : Byte) : Nat :=
  col.toNat + (rowOffset P row).toNat

/-- `trunc_8(OP_DDRAM | addr)` (30_encoding.md R49). -/
def setCursorPayload (P : Params) (col row : Byte) : Byte :=
  BitVec.ofNat 8 (P.opDdram.toNat ||| ddramAddress P col row)

/-- `loc << CGRAM_SHIFT` with `loc = location & LOC_MASK` (30_encoding.md R50). -/
def cgramAddress (P : Params) (location : Byte) : Byte :=
  (location &&& P.locMask) <<< P.cgramShift

/-- `OP_CGRAM | (loc << CGRAM_SHIFT)` (30_encoding.md R50). -/
def cgramPayload (P : Params) (location : Byte) : Byte :=
  commandPayload P.opCgram (cgramAddress P location)

/-- The code of a brightness level, by equality with the four levels (30_encoding.md R52). -/
def brightnessCode (P : Params) (level : Byte) : Option Byte :=
  if level = 100 then some P.brtCode100
  else if level = 75 then some P.brtCode75
  else if level = 50 then some P.brtCode50
  else if level = 25 then some P.brtCode25
  else none

/-- The payload of the last frame of `createChar` (46_custom_glyph.md R105, R107). -/
def tailPayload (P : Params) : Byte :=
  match P.createCharTail with
  | .home => P.opHome
  | .ddram0 => P.opDdram

end Sys2Proof.Machine
end

