-- ==== Sys2Proof/Machine/Ops.lean ====
section
/-!
DEFINITION. The shared operations: emitting an event, the Transport's frame sequence (40_transport.md), running
the steps of an operation, and accepting a request. The block has no memory to read or write (20_memory.md)
and takes no exception (60_exceptions.md R113, R117), so there is no such operation here.
-/

namespace Sys2Proof.Machine

/-- The levels after `line` is driven to `level` (10_state.md R12). -/
def Levels.drive (lv : Levels) (line : Line) (level : Bool) : Levels :=
  match line with
  | .sck => { lv with sck := level }
  | .stb => { lv with stb := level }
  | .sda => { lv with sda := level }

/-- The levels after one event: only `Set` changes one. -/
def Levels.after (lv : Levels) : Event → Levels
  | .cfg _ => lv
  | .set line level => lv.drive line level
  | .wait _ => lv

/-- Emit one event: it is appended to the trace and takes effect on the lines (00_scope.md R9, 10_state.md R22). -/
def State.emit (s : State) (e : Event) : State :=
  { s with trace := s.trace ++ [e], lvl := s.lvl.after e }

/-- One action of the sequencer. Placing a bit reads FR, which `transmit` has loaded; with no frame loaded there
is no bit to place (log 18). -/
def State.prim (s : State) : Prim → State
  | .cfg line => s.emit (.cfg line)
  | .set line level => s.emit (.set line level)
  | .wait n => s.emit (.wait n)
  | .load w => { s with fr := some w }
  | .bit i =>
    match s.fr with
    | some w => { s.emit (.set .sda (w.getLsbD i.toNat)) with bitidx := some i }
    | none => s
  | .drop => { s with fr := none, bitidx := none }
  | .ret n => { s with returned := s.returned ++ [n] }

/-- The clock pulse (40_transport.md R68, 30_encoding.md R57). -/
def pulsePrims (P : Params) : List Prim :=
  [.wait P.tHalf, .set .sck true, .wait P.tHalf, .set .sck false]

/-- Step 3 of `transmit` for the bits `n-1` down to 0 (40_transport.md R67). -/
def bitPrims (P : Params) : Nat → List Prim
  | 0 => []
  | n + 1 => .bit (BitVec.ofNat 4 n) :: (pulsePrims P ++ bitPrims P n)

/-- `transmit`: load FR and run the four steps (40_transport.md R65 to R70). -/
def transmitPrims (P : Params) (w : FrameWord) : List Prim :=
  [.load w, .set .stb false, .wait P.tStb, .set .sck false] ++ bitPrims P Config.frameBits ++
    [.set .sck true, .set .stb true, .wait P.tStb, .drop]

/-- Send one frame (40_transport.md R63, R70). -/
def State.transmit (s : State) (w : FrameWord) : State :=
  (transmitPrims s.cfg w).foldl State.prim s

/-- One step of an operation's sequence, run whole. -/
def State.seqStep (s : State) : SeqStep → State
  | .prim p => s.prim p
  | .call c => s.transmit (callWord s.cfg c)

/-- The steps of an operation, in listed order, each exactly once (10_state.md R17). -/
def State.run (s : State) (steps : List SeqStep) : State :=
  steps.foldl State.seqStep s

/-- The actions a step consists of, for the stepwise representation (decision D2). -/
def expandStep (P : Params) : SeqStep → List Prim
  | .prim p => [p]
  | .call c => transmitPrims P (callWord P c)

/-- An accepted operation: the state with its register writes made, and the steps it has to run (decision D2: the
register writes of an operation happen before its first `transmit`). -/
structure Job where
  base : State
  steps : List SeqStep
  deriving DecidableEq, Repr

/-- A host operation other than `construct` needs an instance and an idle sequencer (60_exceptions.md R118
`NotConstructed`, `Reentered`; the order of the checks is log 13). -/
def State.accept (s : State) (job : Except Refusal Job) : Except Refusal Job :=
  match s.pins, s.seq with
  | none, _ => .error .notConstructed
  | some _, _ :: _ => .error .reentered
  | some _, [] => job

/-- A frame sent from inside the block: it needs an instance; it is a step of the operation that is running, so the
sequencer need not be idle (30_encoding.md R57). -/
def State.internal (s : State) (c : Call) : Except Refusal Job :=
  match s.pins with
  | none => .error .notConstructed
  | some _ => .ok ⟨s, [.call c]⟩

/-- An operation as one transition: its whole sequence runs (decision D2, 10_state.md R17). -/
def complete (job : Except Refusal Job) : Host.Outcome State Fault Refusal :=
  match job with
  | .error r => .refused r
  | .ok j => .next (j.base.run j.steps)

/-- An operation begun for the stepwise representation: its steps are left to the sequencer (decision D2). -/
def begun (job : Except Refusal Job) : Host.Outcome State Fault Refusal :=
  match job with
  | .error r => .refused r
  | .ok j => .next { j.base with seq := j.steps ++ j.base.seq }

end Sys2Proof.Machine
end

