-- ==== Sys2Proof/Machine/Brightness.lean ====
section
/-!
DEFINITION. `setBrightness` (45_brightness.md R101 to R104).
-/

namespace Sys2Proof.Machine

/-- `setBrightness(level)` (45_brightness.md R101): FUNC takes the code of a recognised level, and FUNCTION_SET is
sent in every case (R102). -/
def planSetBrightness (level : Byte) (s : State) : Except Refusal Job :=
  let func := withBrightness s.cfg (brightnessCode s.cfg level) s.func
  s.accept (.ok ⟨{ s with func := func }, [.call (.command (registerPayload s.cfg.opFunc func))]⟩)

def execSetBrightness (level : Byte) (s : State) : Host.Outcome State Fault Refusal :=
  complete (planSetBrightness level s)

end Sys2Proof.Machine
end

