-- ==== Sys2Proof/Machine/Frames.lean ====
section
/-!
DEFINITION. The eight frame types (41_command_frames.md R75 to R82). Each row sends the frame it is composed as;
the operand field is the byte the row's word carries under its opcode bit, which is the register value or the
address the Controller Model composed it from (log 9). The composition from the registers is in the operations
that send these frames (Machine/Init.lean, Toggles.lean, Brightness.lean).
-/

namespace Sys2Proof.Machine

/-- CLEAR_DISPLAY: `command(OP_CLEAR)` (R75). -/
def planClearDisplay (s : State) : Except Refusal Job :=
  s.internal (.command s.cfg.opClear)

def execClearDisplay (s : State) : Host.Outcome State Fault Refusal := complete (planClearDisplay s)

/-- RETURN_HOME: `command(OP_HOME)` (R76). -/
def planReturnHome (s : State) : Except Refusal Job :=
  s.internal (.command s.cfg.opHome)

def execReturnHome (s : State) : Host.Outcome State Fault Refusal := complete (planReturnHome s)

/-- ENTRY_MODE_SET: `command(OP_ENTRY | ENTRY)`, `entry` the whole register (R77). -/
def planEntryModeSet (entry : Byte) (s : State) : Except Refusal Job :=
  s.internal (.command (registerPayload s.cfg.opEntry entry))

def execEntryModeSet (entry : Byte) (s : State) : Host.Outcome State Fault Refusal :=
  complete (planEntryModeSet entry s)

/-- DISPLAY_CONTROL: `command(OP_CTRL | CTRL)`, `ctrl` the whole register (R78). -/
def planDisplayControl (ctrl : Byte) (s : State) : Except Refusal Job :=
  s.internal (.command (registerPayload s.cfg.opCtrl ctrl))

def execDisplayControl (ctrl : Byte) (s : State) : Host.Outcome State Fault Refusal :=
  complete (planDisplayControl ctrl s)

/-- FUNCTION_SET: `command(OP_FUNC | FUNC)`, `func` the whole register (R79). -/
def planFunctionSet (func : Byte) (s : State) : Except Refusal Job :=
  s.internal (.command (registerPayload s.cfg.opFunc func))

def execFunctionSet (func : Byte) (s : State) : Host.Outcome State Fault Refusal :=
  complete (planFunctionSet func s)

/-- SET_CGRAM_ADDR: `command(OP_CGRAM | addr)`, `addr` the glyph's CGRAM address (R80). -/
def planSetCgramAddr (addr : Byte) (s : State) : Except Refusal Job :=
  s.internal (.command (commandPayload s.cfg.opCgram addr))

def execSetCgramAddr (addr : Byte) (s : State) : Host.Outcome State Fault Refusal :=
  complete (planSetCgramAddr addr s)

/-- SET_DDRAM_ADDR: `command(OP_DDRAM | addr)`, `addr` the DDRAM address the chip receives (R81). -/
def planSetDdramAddr (addr : Byte) (s : State) : Except Refusal Job :=
  s.internal (.command (commandPayload s.cfg.opDdram addr))

def execSetDdramAddr (addr : Byte) (s : State) : Host.Outcome State Fault Refusal :=
  complete (planSetDdramAddr addr s)

/-- DATA_WRITE: `data(v)`, `v` unchanged (R82). -/
def planDataWrite (v : Byte) (s : State) : Except Refusal Job :=
  s.internal (.data v)

def execDataWrite (v : Byte) (s : State) : Host.Outcome State Fault Refusal := complete (planDataWrite v s)

end Sys2Proof.Machine
end

