-- ==== Sys2Proof/Machine/Glyph.lean ====
section
/-!
DEFINITION. `createChar` (46_custom_glyph.md R105 to R107).
-/

namespace Sys2Proof.Machine

/-- The ten frames of `createChar`: the CGRAM address, the glyph's bytes in index order, the tail
(46_custom_glyph.md R105). -/
def createCharSteps (P : Params) (location : Byte) (glyph : List Byte) : List SeqStep :=
  .call (.command (cgramPayload P location)) ::
    (glyph.map (fun v => .call (.data v)) ++ [.call (.command (tailPayload P))])

/-- `createChar(location, glyph)` (46_custom_glyph.md R105); a glyph of other than eight bytes is refused
(60_exceptions.md R118 `GlyphLength`). -/
def planCreateChar (location : Byte) (glyph : List Byte) (s : State) : Except Refusal Job :=
  s.accept
    (if glyph.length = Config.glyphRows then .ok ⟨s, createCharSteps s.cfg location glyph⟩
     else .error .glyphLength)

def execCreateChar (location : Byte) (glyph : List Byte) (s : State) : Host.Outcome State Fault Refusal :=
  complete (planCreateChar location glyph s)

end Sys2Proof.Machine
end

