-- ==== Sys2Proof/Machine/Init.lean ====
section
/-!
DEFINITION. Construction and initialisation (42_init.md): `construct`, which is the block's reset, and `begin`.
-/

namespace Sys2Proof.Machine

/-- The state of a new instance before its first event (42_init.md R85): the pins bound, FUNC at its reset value,
CTRL, ENTRY and LINES unwritten, the levels unspecified (three free values, log 3), nothing emitted. -/
def State.newInstance (s : State) (sck stb sda : LineId) : State :=
  { s with
    pins := some ⟨sck, stb, sda⟩
    lvl := ⟨Config.freeLevel s.fresh, Config.freeLevel (s.fresh + 1), Config.freeLevel (s.fresh + 2)⟩
    func := s.cfg.funcReset
    ctrl := .unwritten
    entry := .unwritten
    lines := .unwritten
    fr := none
    bitidx := none
    trace := []
    returned := []
    fresh := s.fresh + 3 }

/-- The three identifiers are pairwise distinct (10_state.md R11). -/
def pinsDistinct (sck stb sda : LineId) : Bool :=
  decide (sck ≠ stb) && decide (sck ≠ sda) && decide (stb ≠ sda)

/-- `construct(sck, stb, sda)` (42_init.md R85). It needs no instance; it is refused while an operation runs. -/
def planConstruct (sck stb sda : LineId) (s : State) : Except Refusal Job :=
  match s.seq with
  | _ :: _ => .error .reentered
  | [] =>
    if pinsDistinct sck stb sda then
      .ok ⟨s.newInstance sck stb sda, [.prim (.cfg .sck), .prim (.cfg .stb), .prim (.cfg .sda)]⟩
    else .error .pinsNotDistinct

def execConstruct (sck stb sda : LineId) (s : State) : Host.Outcome State Fault Refusal :=
  complete (planConstruct sck stb sda s)

/-- The register writes at the top of `begin` (42_init.md R86, R87, R88). -/
def State.initRegisters (s : State) (rows : Byte) : State :=
  { s with
    lines := .val rows
    func := withLineCount s.cfg rows s.func
    ctrl := .val s.cfg.ctrlInit
    entry := .val s.cfg.entryInit }

/-- The five numbered steps of `begin`, FUNCTION_SET last (42_init.md R86, 70_reset_and_hazards.md R132). -/
def beginSteps (P : Params) (func : Byte) : List SeqStep :=
  [.prim (.wait P.tPowerup),
   .call (.command P.opClear), .prim (.wait P.tClear),
   .call (.command (registerPayload P.opCtrl P.ctrlInit)), .prim (.wait P.tCmd),
   .call (.command (registerPayload P.opEntry P.entryInit)), .prim (.wait P.tCmd),
   .call (.command (registerPayload P.opFunc func)), .prim (.wait P.tCmd)]

/-- `begin(cols, rows)` (42_init.md R86); `cols` is unused (R89). -/
def planBegin (_cols rows : Byte) (s : State) : Except Refusal Job :=
  s.accept (.ok ⟨s.initRegisters rows, beginSteps s.cfg (s.initRegisters rows).func⟩)

def execBegin (cols rows : Byte) (s : State) : Host.Outcome State Fault Refusal :=
  complete (planBegin cols rows s)

end Sys2Proof.Machine
end

