-- ==== Sys2Proof/Machine/Internal.lean ====
section
/-!
DEFINITION. The internal primitives (30_encoding.md R57, 40_transport.md R63 to R73): `transmit` and its two
wrappers. They have no failure mode (R72); without an instance there is nothing to transmit with.
-/

namespace Sys2Proof.Machine

/-- `transmit(mode, payload)` (40_transport.md R63, R70). -/
def planTransmit (mode payload : Byte) (s : State) : Except Refusal Job :=
  s.internal (.transmit (frameWord mode payload))

def execTransmit (mode payload : Byte) (s : State) : Host.Outcome State Fault Refusal :=
  complete (planTransmit mode payload s)

/-- `command(v)` is `transmit(MODE_CMD, v)` (40_transport.md R73). -/
def planCommand (v : Byte) (s : State) : Except Refusal Job :=
  s.internal (.command v)

def execCommand (v : Byte) (s : State) : Host.Outcome State Fault Refusal := complete (planCommand v s)

/-- `data(v)` is `transmit(MODE_DATA, v)` (40_transport.md R73). -/
def planData (v : Byte) (s : State) : Except Refusal Job :=
  s.internal (.data v)

def execData (v : Byte) (s : State) : Host.Outcome State Fault Refusal := complete (planData v s)

end Sys2Proof.Machine
end

