-- ==== Sys2Proof/Machine/Position.lean ====
section
/-!
DEFINITION. Clearing and positioning: `clear`, `home` (48_clear_home.md) and `setCursor` (44_cursor_position.md).
They read and write no register of the block.
-/

namespace Sys2Proof.Machine

/-- `clear()` (48_clear_home.md R110). -/
def planClear (s : State) : Except Refusal Job :=
  s.accept (.ok ⟨s, [.call (.command s.cfg.opClear), .prim (.wait s.cfg.tClear)]⟩)

def execClear (s : State) : Host.Outcome State Fault Refusal := complete (planClear s)

/-- `home()` (48_clear_home.md R111). -/
def planHome (s : State) : Except Refusal Job :=
  s.accept (.ok ⟨s, [.call (.command s.cfg.opHome)]⟩)

def execHome (s : State) : Host.Outcome State Fault Refusal := complete (planHome s)

/-- `setCursor(col, row)` (44_cursor_position.md R98). -/
def planSetCursor (col row : Byte) (s : State) : Except Refusal Job :=
  s.accept (.ok ⟨s, [.call (.command (setCursorPayload s.cfg col row))]⟩)

def execSetCursor (col row : Byte) (s : State) : Host.Outcome State Fault Refusal :=
  complete (planSetCursor col row s)

end Sys2Proof.Machine
end

