-- ==== Sys2Proof/Machine/Toggles.lean ====
section
/-!
DEFINITION. The six feature toggles (43_toggles.md R90 to R96).
-/

namespace Sys2Proof.Machine

/-- The common pattern (43_toggles.md R90): change one bit of CTRL, then send the whole register. CTRL unwritten is
refused, the first line of R90's pseudocode: "if CTRL is unwritten: refuse CtrlUnwritten" (also 60_exceptions.md R118,
10_state.md R14, 41_command_frames.md R78). -/
def State.toggle (s : State) (change : Byte → Byte) : Except Refusal Job :=
  s.accept
    (match s.ctrl with
     | .unwritten => .error .ctrlUnwritten
     | .val c => .ok ⟨{ s with ctrl := .val (change c) },
         [.call (.command (registerPayload s.cfg.opCtrl (change c)))]⟩)

/-- `display()` (R91). -/
def planDisplay (s : State) : Except Refusal Job :=
  s.toggle fun c => setFlag c s.cfg.ctrlDisplay

def execDisplay (s : State) : Host.Outcome State Fault Refusal := complete (planDisplay s)

/-- `noDisplay()` (R92). -/
def planNoDisplay (s : State) : Except Refusal Job :=
  s.toggle fun c => clearFlag c s.cfg.ctrlDisplay

def execNoDisplay (s : State) : Host.Outcome State Fault Refusal := complete (planNoDisplay s)

/-- `cursor()` (R93). -/
def planCursor (s : State) : Except Refusal Job :=
  s.toggle fun c => setFlag c s.cfg.ctrlCursor

def execCursor (s : State) : Host.Outcome State Fault Refusal := complete (planCursor s)

/-- `noCursor()` (R94). -/
def planNoCursor (s : State) : Except Refusal Job :=
  s.toggle fun c => clearFlag c s.cfg.ctrlCursor

def execNoCursor (s : State) : Host.Outcome State Fault Refusal := complete (planNoCursor s)

/-- `blink()` (R95). -/
def planBlink (s : State) : Except Refusal Job :=
  s.toggle fun c => setFlag c s.cfg.ctrlBlink

def execBlink (s : State) : Host.Outcome State Fault Refusal := complete (planBlink s)

/-- `noBlink()` (R96). -/
def planNoBlink (s : State) : Except Refusal Job :=
  s.toggle fun c => clearFlag c s.cfg.ctrlBlink

def execNoBlink (s : State) : Host.Outcome State Fault Refusal := complete (planNoBlink s)

end Sys2Proof.Machine
end

