-- ==== Sys2Proof/Machine/Write.lean ====
section
/-!
DEFINITION. `write` (47_write.md R108, R109).
-/

namespace Sys2Proof.Machine

/-- `write(byte)` (47_write.md R108): one data frame, then the count 1 is returned (R109). -/
def planWrite (byte : Byte) (s : State) : Except Refusal Job :=
  s.accept (.ok ⟨s, [.call (.data byte), .prim (.ret 1)]⟩)

def execWrite (byte : Byte) (s : State) : Host.Outcome State Fault Refusal := complete (planWrite byte s)

end Sys2Proof.Machine
end

