-- ==== Sys2Proof/Machine/Dispatch.lean ====
section
/-!
DEFINITION. The dispatch: one arm per constructor of Instr, each one direct call of that instruction's meaning.
-/

namespace Sys2Proof.Machine

def exec (i : Instr) (s : State) : Host.Outcome State Fault Refusal :=
  match i with
  | .clearDisplay => Sys2Proof.Machine.execClearDisplay s
  | .returnHome => Sys2Proof.Machine.execReturnHome s
  | .entryModeSet entry => Sys2Proof.Machine.execEntryModeSet entry s
  | .displayControl ctrl => Sys2Proof.Machine.execDisplayControl ctrl s
  | .functionSet func => Sys2Proof.Machine.execFunctionSet func s
  | .setCgramAddr addr => Sys2Proof.Machine.execSetCgramAddr addr s
  | .setDdramAddr addr => Sys2Proof.Machine.execSetDdramAddr addr s
  | .dataWrite v => Sys2Proof.Machine.execDataWrite v s
  | .construct sck stb sda => Sys2Proof.Machine.execConstruct sck stb sda s
  | .begin cols rows => Sys2Proof.Machine.execBegin cols rows s
  | .clear => Sys2Proof.Machine.execClear s
  | .home => Sys2Proof.Machine.execHome s
  | .display => Sys2Proof.Machine.execDisplay s
  | .noDisplay => Sys2Proof.Machine.execNoDisplay s
  | .cursor => Sys2Proof.Machine.execCursor s
  | .noCursor => Sys2Proof.Machine.execNoCursor s
  | .blink => Sys2Proof.Machine.execBlink s
  | .noBlink => Sys2Proof.Machine.execNoBlink s
  | .setCursor col row => Sys2Proof.Machine.execSetCursor col row s
  | .setBrightness level => Sys2Proof.Machine.execSetBrightness level s
  | .createChar location glyph => Sys2Proof.Machine.execCreateChar location glyph s
  | .write byte => Sys2Proof.Machine.execWrite byte s
  | .transmit mode payload => Sys2Proof.Machine.execTransmit mode payload s
  | .command v => Sys2Proof.Machine.execCommand v s
  | .data v => Sys2Proof.Machine.execData v s

end Sys2Proof.Machine
end

