-- ==== Sys2Proof/Machine/Sequencer.lean ====
section
/-!
DEFINITION. The stepwise representation of an operation (decision D2, 10_state.md R17): the same plans the meanings
run whole are handed to the sequencer, which makes one step of them at a time.
-/

namespace Sys2Proof.Machine

/-- The accepted operation behind each meaning: its register writes and its steps, or its refusal. -/
def plan (i : Instr) (s : State) : Except Refusal Job :=
  match i with
  | .clearDisplay => planClearDisplay s
  | .returnHome => planReturnHome s
  | .entryModeSet entry => planEntryModeSet entry s
  | .displayControl ctrl => planDisplayControl ctrl s
  | .functionSet func => planFunctionSet func s
  | .setCgramAddr addr => planSetCgramAddr addr s
  | .setDdramAddr addr => planSetDdramAddr addr s
  | .dataWrite v => planDataWrite v s
  | .construct sck stb sda => planConstruct sck stb sda s
  | .begin cols rows => planBegin cols rows s
  | .clear => planClear s
  | .home => planHome s
  | .display => planDisplay s
  | .noDisplay => planNoDisplay s
  | .cursor => planCursor s
  | .noCursor => planNoCursor s
  | .blink => planBlink s
  | .noBlink => planNoBlink s
  | .setCursor col row => planSetCursor col row s
  | .setBrightness level => planSetBrightness level s
  | .createChar location glyph => planCreateChar location glyph s
  | .write byte => planWrite byte s
  | .transmit mode payload => planTransmit mode payload s
  | .command v => planCommand v s
  | .data v => planData v s

/-- Begin an operation without running it: the sequencer holds its steps (decision D2; log 6). -/
def launch (i : Instr) (s : State) : Host.Outcome State Fault Refusal := begun (plan i s)

/-- A single action of the running operation, its position moving past it (10_state.md R17). -/
def advance (p : Prim) (rest : List SeqStep) (s : State) : Host.Outcome State Fault Refusal :=
  .next (({ s with seq := rest } : State).prim p)

/-- In the stepwise representation a call of the Transport is replaced by its own actions: the nesting of layers is
macro expansion (49_laws_and_control.md R152). Like every call it needs an instance. -/
def unfoldCall (c : Call) (rest : List SeqStep) (s : State) : Host.Outcome State Fault Refusal :=
  match s.pins with
  | none => .refused .notConstructed
  | some _ => .next { s with seq := (expandStep s.cfg (.call c)).map .prim ++ rest }

/-- The refusal of a request the decoder turns away (60_exceptions.md R118 `NoSuchOperation`). -/
def refusalOf : Reject → Refusal
  | .noSuchOperation op => .noSuchOperation op

/-- With no operation running and none to issue the block stays as it is, the lines held at their last levels
(60_exceptions.md R125). -/
def idle (s : State) : Host.Outcome State Fault Refusal := .next s

end Sys2Proof.Machine
end

