-- ==== Sys2Proof/Machine/Step.lean ====
section
/-!
DEFINITION. The step. A running operation goes on before the host has a move (60_exceptions.md R118 `Reentered`);
an idle block takes the host's next request; with none left it stays as it is.
-/

namespace Sys2Proof.Machine

/-- An instruction of the host's program: run whole, or begun, by the representation chosen (decision D2). -/
def issue (i : Instr) (s : State) : Host.Outcome State Fault Refusal :=
  if s.stepwise then launch i s else exec i s

/-- One step of the block. A refusal ends the run of steps: the outcome carries no state, the refused request stays at
the head of the host's list, and a step from the same state is refused again. That the host would go on with its next
request (95_test_vectors.md P5) is the host's move, made from outside on the unchanged state (60_exceptions.md R118),
and no step of the model makes it. DESIGN CHOICE, log 24. -/
def step (s : State) : Host.Outcome State Fault Refusal :=
  match s.seq with
  | .prim p :: rest => advance p rest s
  | .call c :: rest =>
    if s.stepwise then unfoldCall c rest s else exec (decodeCall s.cfg c) { s with seq := rest }
  | [] =>
    match s.program with
    | [] => idle s
    | r :: rs =>
      match decodeRequest r with
      | .error e => .refused (refusalOf e)
      | .ok i => issue i { s with program := rs }

/-- The state with the instruction of bits `w` placed where the step finds its next one: a frame as the next call of
the sequencer, a request as the host's next, with the sequencer idle; run whole (log 7). -/
def State.withFetchWord (s : State) (nbits w : Nat) : State :=
  match codeOfTableWord nbits w with
  | .call c => { s with seq := .call c :: s.seq, stepwise := false }
  | .request r => { s with seq := [], program := r :: s.program, stepwise := false }

end Sys2Proof.Machine
end

