-- ==== Sys2Proof/Machine/Observe.lean ====
section
/-!
DEFINITION. Views of the trace (10_state.md R22): the frame list and the sample list, times, the frame last sent
per register command (R26), and the stores the block has asked of the chip (20_memory.md R28 to R32). They
are functions of the trace; the chip itself has no state here (93_implementation_defined.md U18, log 11).
-/

namespace Sys2Proof.Machine

/-! ## The event list of a frame -/

/-- The bits of a frame from bit 15 down to bit 0 (20_memory.md R34). -/
def bitsDown (w : FrameWord) : List Bool :=
  (List.range 16).map fun k => w.getLsbD (15 - k)

/-- The five events of one bit: the level, then the clock pulse (40_transport.md R67, R68). -/
def bitEvents (P : Params) (b : Bool) : List Event :=
  [.set .sda b, .wait P.tHalf, .set .sck true, .wait P.tHalf, .set .sck false]

/-- The 86 events of `transmit` as the pseudocode lists them (40_transport.md R70). -/
def frameEvents (P : Params) (w : FrameWord) : List Event :=
  [.set .stb false, .wait P.tStb, .set .sck false] ++ (bitsDown w).flatMap (bitEvents P) ++
    [.set .sck true, .set .stb true, .wait P.tStb]

/-- The events of one step of an operation. -/
def stepEvents (P : Params) : SeqStep → List Event
  | .prim (.cfg line) => [.cfg line]
  | .prim (.set line level) => [.set line level]
  | .prim (.wait n) => [.wait n]
  | .prim _ => []
  | .call c => frameEvents P (callWord P c)

/-! ## The frame list -/

/-- The word of sixteen levels, the first the most significant. -/
def wordOfBits (bits : List Bool) : FrameWord :=
  bits.foldl (fun w b => (w <<< 1) ||| (if b then 1 else 0)) 0

/-- Reading a trace frame by frame: the frames so far, and the data levels placed since the strobe fell. -/
structure FrameReader where
  frames : List FrameWord
  open? : Option (List Bool)
  deriving DecidableEq, Repr

/-- A frame begins with the strobe's fall, takes every data level placed, and ends with the strobe's rise. -/
def FrameReader.read (r : FrameReader) : Event → FrameReader
  | .set .stb false => { r with open? := some [] }
  | .set .sda b => { r with open? := r.open?.map (· ++ [b]) }
  | .set .stb true =>
    match r.open? with
    | some bits => ⟨r.frames ++ [wordOfBits bits], none⟩
    | none => r
  | _ => r

/-- The reader after a whole trace. -/
def readFrames (tr : List Event) : FrameReader := tr.foldl FrameReader.read ⟨[], none⟩

/-- The frame list of a trace (10_state.md R22, 40_transport.md R70). -/
def framesOf (tr : List Event) : List FrameWord := (readFrames tr).frames

/-! ## The sample list -/

/-- What a receiver sees: the levels, and the data level at every rising clock edge under a low strobe. -/
structure Receiver where
  lvl : Levels
  samples : List Bool
  deriving DecidableEq, Repr

/-- A sample is taken where `Set(SCK, 1)` changes SCK from 0 to 1 while STB is 0 (40_transport.md R74). -/
def Receiver.see (r : Receiver) (e : Event) : Receiver :=
  ⟨r.lvl.after e,
   if e = .set .sck true ∧ r.lvl.sck = false ∧ r.lvl.stb = false then r.samples ++ [r.lvl.sda] else r.samples⟩

/-- The sample list of a trace replayed from known levels (40_transport.md R74). -/
def samplesOf (lv : Levels) (tr : List Event) : List Bool := (tr.foldl Receiver.see ⟨lv, []⟩).samples

/-! ## Time -/

/-- The least time an event takes: `Cfg` and `Set` none, `Wait(n)` at least `n` (70_reset_and_hazards.md R147). -/
def Event.units : Event → Nat
  | .cfg _ => 0
  | .set _ _ => 0
  | .wait n => n

/-- The sum of the waits of a list of events (70_reset_and_hazards.md R148). -/
def unitsOf (tr : List Event) : Nat := (tr.map Event.units).sum

/-- The least time before the event of index `n`, counted from 0 (70_reset_and_hazards.md R145). -/
def timeBefore (tr : List Event) (n : Nat) : Nat := unitsOf (tr.take n)

/-! ## The register value last sent -/

/-- The register value a frame carries, by the register command it is (10_state.md R26). -/
def displayControlValue (P : Params) (w : FrameWord) : Option Byte :=
  match decodeFrame P w with
  | .displayControl v => some v
  | _ => none

def entryModeValue (P : Params) (w : FrameWord) : Option Byte :=
  match decodeFrame P w with
  | .entryModeSet v => some v
  | _ => none

def functionSetValue (P : Params) (w : FrameWord) : Option Byte :=
  match decodeFrame P w with
  | .functionSet v => some v
  | _ => none

/-- The last value a frame list carries for a register command: `last_sent` of 10_state.md R26, without the opcode
bit. -/
def lastValue (value : FrameWord → Option Byte) (frames : List FrameWord) : Option Byte :=
  (frames.filterMap value).getLast?

/-! ## Stores asked of the chip -/

/-- The chip's two address spaces (20_memory.md R28). -/
inductive Space where
  | ddram
  | cgram
  deriving DecidableEq, Repr

/-- Where the chip's address counter was last pointed, as far as the document implies it (20_memory.md R31): `home`
after RETURN_HOME, `at` the address of an address-set command; before any, and after CLEAR_DISPLAY, of which the
source does not say whether it moves the counter (41_command_frames.md R75), unknown; unknown too after a frame of
no type (log 22). -/
inductive Pointer where
  | unknown
  | home
  | at (space : Space) (addr : Nat)
  deriving DecidableEq, Repr

/-- A store the block asks of the chip (20_memory.md R32): the byte goes `advanced` places past where the counter was
pointed, one place for each data frame since (R31 point c, an implication the source does not state). The direction
of a place, and what lies past the end of a space, are not fixed: `advanced` is a count (DESIGN CHOICE, log 23). -/
structure StoreRequest where
  base : Pointer
  advanced : Nat
  byte : Byte
  deriving DecidableEq, Repr

/-- Reading a frame list for its stores. -/
structure StoreReader where
  base : Pointer
  advanced : Nat
  stores : List StoreRequest
  deriving DecidableEq, Repr

/-- One frame's effect on the stores asked for: an address-set command or RETURN_HOME points the counter, a data
frame is the one store and one place, the register commands touch neither (20_memory.md R31, R32). Two points the
spec leaves open are the model's choice here. DESIGN CHOICE, log 22: after a frame of no type (payload 0x00, 0x03,
0x10 to 0x1F, or another mode byte) the counter is unknown, as after CLEAR_DISPLAY, and nothing is stored. DESIGN
CHOICE, log 23: a place is counted for each data frame whatever direction ENTRY_MODE_SET sent. -/
def StoreReader.read (P : Params) (r : StoreReader) (w : FrameWord) : StoreReader :=
  match decodeFrame P w with
  | .clearDisplay => { r with base := .unknown, advanced := 0 }
  | .returnHome => { r with base := .home, advanced := 0 }
  | .setCgramAddr addr => { r with base := .at .cgram addr.toNat, advanced := 0 }
  | .setDdramAddr addr => { r with base := .at .ddram addr.toNat, advanced := 0 }
  | .dataWrite v => { r with advanced := r.advanced + 1, stores := r.stores ++ [⟨r.base, r.advanced, v⟩] }
  | .entryModeSet _ => r
  | .displayControl _ => r
  | .functionSet _ => r
  | _ => { r with base := .unknown, advanced := 0 }

/-- The stores a frame list asks for, in order (49_laws_and_control.md R153). -/
def storesOf (P : Params) (frames : List FrameWord) : List StoreRequest :=
  (frames.foldl (StoreReader.read P) ⟨.unknown, 0, []⟩).stores

/-! ## What an operation emits -/

/-- The events an operation appends (49_laws_and_control.md R152): those of its steps, in order. -/
def jobEvents (j : Job) : List Event := j.steps.flatMap (stepEvents j.base.cfg)

end Sys2Proof.Machine
end

