-- ==== Sys2Proof/Safety.lean ====
section
/-!
DEFINITION. What claims use: the conditions under which an operation runs, and the invariants of the block.
-/

namespace Sys2Proof.Machine

/-- An instance exists (60_exceptions.md R118 `NotConstructed` does not apply). -/
def State.Constructed (s : State) : Prop := s.pins ≠ none

/-- A host operation may be issued: an instance exists and no operation is running (70_reset_and_hazards.md R150). -/
def State.Ready (s : State) : Prop := s.pins ≠ none ∧ s.seq = []

/-- The state after one frame more: the frame's events in the trace, the lines at rest with the data line at the
payload's bit 0 (40_transport.md R71), the transient registers empty (10_state.md R18, R19). -/
def State.sent (s : State) (w : FrameWord) : State :=
  { s with
    trace := s.trace ++ frameEvents s.cfg w
    lvl := ⟨true, true, w.getLsbD 0⟩
    fr := none
    bitidx := none }

/-- The state after one wait more. -/
def State.waited (s : State) (n : Nat) : State := { s with trace := s.trace ++ [.wait n] }

/-- A run is safe when no refusal occurred (60_exceptions.md R118); the block has no fault (R113). -/
def Safe (o : Host.Outcome State Fault Refusal) : Prop := ∃ t, o = .next t

/-- Between operations, in the representation with one transition per operation: the sequencer is idle, the
transient registers hold no value, and no frame is open (10_state.md R17 to R19). -/
structure State.Resting (s : State) : Prop where
  whole : s.stepwise = false
  idle : s.seq = []
  noFrame : s.fr = none
  noIndex : s.bitidx = none
  closed : (readFrames s.trace).open? = none

/-- The lines between frames (40_transport.md R71, 70_reset_and_hazards.md R149): once a frame has been sent the clock
and the strobe rest high and the data line at bit 0 of the last payload. -/
def State.LinesAtRest (s : State) : Prop :=
  ∀ w, (framesOf s.trace).getLast? = some w → s.lvl = ⟨true, true, w.getLsbD 0⟩

/-- CTRL, ENTRY and LINES are written together, by `begin` (10_state.md R14, R15, R16); ENTRY is `ENTRY_INIT` once
written (R15); bits no field names read 0, and the interface width is set (R13, R14). -/
structure State.RegistersLegal (s : State) : Prop where
  together : (s.ctrl = .unwritten ↔ s.entry = .unwritten) ∧ (s.ctrl = .unwritten ↔ s.lines = .unwritten)
  entryInit : ∀ v, s.entry = .val v → v = s.cfg.entryInit
  ctrlNamed : ∀ v, s.ctrl = .val v → v &&& ~~~s.cfg.ctrlBits = 0
  funcNamed : s.func &&& ~~~s.cfg.funcBits = 0
  ifwidth : s.func &&& s.cfg.funcIfwidth = s.cfg.funcIfwidth

/-- The frames the block can emit, one clause per frame type (41_command_frames.md R75 to R83, 30_encoding.md R53). -/
inductive Emittable (P : Params) : FrameWord → Prop where
  | clearDisplay : Emittable P (frameWord P.modeCmd P.opClear)
  | returnHome : Emittable P (frameWord P.modeCmd P.opHome)
  | entryModeSet : Emittable P (frameWord P.modeCmd (P.opEntry ||| P.entryInit))
  | displayControl (v : Byte) (h : v &&& ~~~P.ctrlBits = 0) : Emittable P (frameWord P.modeCmd (P.opCtrl ||| v))
  | functionSet (v : Byte) (h : v &&& ~~~P.funcBits = 0) (hw : v &&& P.funcIfwidth = P.funcIfwidth) :
      Emittable P (frameWord P.modeCmd (P.opFunc ||| v))
  | setCgramAddr (loc : Byte) :
      Emittable P (frameWord P.modeCmd (P.opCgram ||| ((loc &&& P.locMask) <<< P.cgramShift)))
  | setDdramAddr (n : Nat) : Emittable P (frameWord P.modeCmd (BitVec.ofNat 8 (P.opDdram.toNat ||| n)))
  | dataWrite (v : Byte) : Emittable P (frameWord P.modeData v)

/-- Every frame of the trace is of one of the eight types (41_command_frames.md R83). -/
def State.EmitsOnlyItsFrames (s : State) : Prop := ∀ w ∈ framesOf s.trace, Emittable s.cfg w

/-- Shadow consistency (10_state.md R26): from the first `begin` on, the value last sent for each register command is
the shadow register's. -/
def State.ShadowConsistent (s : State) : Prop :=
  ∀ c e, s.ctrl = .val c → s.entry = .val e →
    lastValue (displayControlValue s.cfg) (framesOf s.trace) = some c ∧
    lastValue (entryModeValue s.cfg) (framesOf s.trace) = some e ∧
    lastValue (functionSetValue s.cfg) (framesOf s.trace) = some s.func

/-- The invariant of a run of host operations. -/
structure State.Inv (s : State) : Prop where
  valid : s.cfg.Valid
  resting : s.Resting
  legal : s.RegistersLegal
  atRest : s.LinesAtRest
  emits : s.EmitsOnlyItsFrames
  consistent : s.ShadowConsistent

end Sys2Proof.Machine
end

