-- ==== Sys2Proof/Certificates/Slice0/Obligations.lean ====
section
/-!
DEFINITION. The statements for the provers. Each docstring names the rule or the section of spec/ it formalises.
`s.sent w` is the state with one frame more (events, lines, transient registers), `s.waited n` with one wait more
(Sys2Proof/Safety.lean); a result written with them says what is unchanged too.
-/

open Sys2Proof Sys2Proof.Machine

/-! ## Frames and the Transport -/

/-- 40_transport.md R64: the first action of `transmit` loads FR with the mode above the payload. -/
def Obligations.FrameRegisterHoldsModeAbovePayload : Prop :=
  (∀ (s : State) (m p : Byte), ∃ w : FrameWord,
    (((transmitPrims s.cfg (frameWord m p)).take 1).foldl State.prim s).fr = some w ∧
    w = (m.setWidth 16 <<< 8) ||| p.setWidth 16 ∧
    w.extractLsb' 8 8 = m ∧ w.extractLsb' 0 8 = p ∧ w.toNat = 256 * m.toNat + p.toNat) ∧
  frameWord 0xF8 0x01 = 0xF801

/-- 41_command_frames.md R75 to R82, the compositions: each of the eight frame rows sends its frame, and nothing but
the trace, the lines and the transient registers changes. That the row's field is the byte under its opcode bit is
the model's reading (logs 9, 21). -/
def Obligations.FrameRowsSendTheirFrame : Prop :=
  ∀ s : State, s.pins ≠ none →
    exec .clearDisplay s = .next (s.sent (frameWord s.cfg.modeCmd s.cfg.opClear)) ∧
    exec .returnHome s = .next (s.sent (frameWord s.cfg.modeCmd s.cfg.opHome)) ∧
    (∀ v, exec (.entryModeSet v) s = .next (s.sent (frameWord s.cfg.modeCmd (s.cfg.opEntry ||| v)))) ∧
    (∀ v, exec (.displayControl v) s = .next (s.sent (frameWord s.cfg.modeCmd (s.cfg.opCtrl ||| v)))) ∧
    (∀ v, exec (.functionSet v) s = .next (s.sent (frameWord s.cfg.modeCmd (s.cfg.opFunc ||| v)))) ∧
    (∀ v, exec (.setCgramAddr v) s = .next (s.sent (frameWord s.cfg.modeCmd (s.cfg.opCgram ||| v)))) ∧
    (∀ v, exec (.setDdramAddr v) s = .next (s.sent (frameWord s.cfg.modeCmd (s.cfg.opDdram ||| v)))) ∧
    (∀ v, exec (.dataWrite v) s = .next (s.sent (frameWord s.cfg.modeData v)))

/-- 40_transport.md R70, R73: `transmit` sends the frame of its two bytes, `command` and `data` fix the mode. -/
def Obligations.InternalPrimitivesSendTheirFrame : Prop :=
  ∀ s : State, s.pins ≠ none →
    (∀ m p, exec (.transmit m p) s = .next (s.sent (frameWord m p))) ∧
    (∀ v, exec (.command v) s = .next (s.sent (frameWord s.cfg.modeCmd v))) ∧
    (∀ v, exec (.data v) s = .next (s.sent (frameWord s.cfg.modeData v)))

/-- 40_transport.md R70: the numbers of events of a frame, by kind, and the sum of its waits. -/
def Obligations.FrameEventCounts : Prop :=
  ∀ (s t : State) (m p : Byte), exec (.transmit m p) s = .next t →
    ∃ es, t.trace = s.trace ++ es ∧ es.length = 86 ∧
      (es.countP fun | .wait _ => true | _ => false) = 34 ∧
      (es.countP fun | .set .sck _ => true | _ => false) = 34 ∧
      (es.countP fun | .set .stb _ => true | _ => false) = 2 ∧
      (es.countP fun | .set .sda _ => true | _ => false) = 16 ∧
      unitsOf es = 2 * s.cfg.tStb + 32 * s.cfg.tHalf

/-- 40_transport.md R72: `transmit` returns nothing, never refuses, never reads a line, and sends every frame the same
way: two frames' traces differ in the data levels alone. -/
def Obligations.TransmitAlwaysSucceeds : Prop :=
  ∀ s : State, s.pins ≠ none → ∀ m p : Byte, ∃ t,
    exec (.transmit m p) s = .next t ∧ t.returned = s.returned ∧
    (∀ lv, exec (.transmit m p) { s with lvl := lv } = .next t) ∧
    (∀ (m' p' : Byte) (t' : State), exec (.transmit m' p') s = .next t' →
      t'.trace.map (fun e => if e = .set .sda true then .set .sda false else e) =
        t.trace.map (fun e => if e = .set .sda true then .set .sda false else e))

/-- 70_reset_and_hazards.md, section 4: the times of the sixteen data bits, rising edges and falling edges, and of
the end of the frame, counted from the strobe's fall. -/
def Obligations.FrameTimes : Prop :=
  ∀ (s t : State) (m p : Byte), exec (.transmit m p) s = .next t →
    ∃ es, t.trace = s.trace ++ es ∧
      (∀ k, k < 16 →
        es[3 + 5 * k]? = some (.set .sda ((frameWord m p).getLsbD (15 - k))) ∧
        timeBefore es (3 + 5 * k) = s.cfg.tStb + k * (2 * s.cfg.tHalf) ∧
        es[5 + 5 * k]? = some (.set .sck true) ∧
        timeBefore es (5 + 5 * k) = s.cfg.tStb + s.cfg.tHalf + k * (2 * s.cfg.tHalf) ∧
        es[7 + 5 * k]? = some (.set .sck false) ∧
        timeBefore es (7 + 5 * k) = s.cfg.tStb + 2 * s.cfg.tHalf + k * (2 * s.cfg.tHalf)) ∧
      es[83]? = some (.set .sck true) ∧ es[84]? = some (.set .stb true) ∧
      timeBefore es 83 = s.cfg.tStb + 32 * s.cfg.tHalf ∧ timeBefore es 84 = s.cfg.tStb + 32 * s.cfg.tHalf ∧
      timeBefore es 86 = 2 * s.cfg.tStb + 32 * s.cfg.tHalf

/-- 70_reset_and_hazards.md, section 3: between the last pulse's rising edge of one frame and the first of the next
the block guarantees two half-periods and two strobe waits. -/
def Obligations.TimeBetweenFrames : Prop :=
  ∀ (s t u : State) (m p m' p' : Byte), exec (.transmit m p) s = .next t → exec (.transmit m' p') t = .next u →
    ∃ es, u.trace = s.trace ++ es ∧ es[80]? = some (.set .sck true) ∧ es[91]? = some (.set .sck true) ∧
      timeBefore es 91 = timeBefore es 80 + (s.cfg.tHalf + s.cfg.tStb + s.cfg.tStb + s.cfg.tHalf)

/-- 40_transport.md, section 4: from any line levels a receiver takes seventeen samples per frame, the sixteen bits
from bit 15 down and bit 0 once more. -/
def Obligations.SamplesOfAFrame : Prop :=
  ∀ (s t : State) (m p : Byte) (lv : Levels), exec (.transmit m p) s = .next t →
    ∃ es, t.trace = s.trace ++ es ∧
      samplesOf lv es = bitsDown (frameWord m p) ++ [(frameWord m p).getLsbD 0]

/-- 40_transport.md, section 2: the strobe is low from the first event of a frame to the sixteenth pulse's end and
beyond the terminal clock raise, high at the end; the data line changes only while the clock is low. -/
def Obligations.StrobeAndDataDiscipline : Prop :=
  ∀ (s t : State) (m p : Byte) (lv : Levels), exec (.transmit m p) s = .next t →
    ∃ es, t.trace = s.trace ++ es ∧
      (∀ n, 1 ≤ n → n ≤ 84 → ((es.take n).foldl Levels.after lv).stb = false) ∧
      (∀ n, 85 ≤ n → ((es.take n).foldl Levels.after lv).stb = true) ∧
      (∀ n b, es[n]? = some (.set .sda b) → ((es.take n).foldl Levels.after lv).sck = false)

/-- 95_test_vectors.md S1 and 10_state.md, section 7: a transmission adds exactly its frame to the frame list read
back from the trace. -/
def Obligations.FrameListGrowsByTheFrame : Prop :=
  ∀ (s t : State) (m p : Byte), exec (.transmit m p) s = .next t →
    framesOf t.trace = framesOf s.trace ++ [frameWord m p]

/-- 10_state.md, sections 3 and 5: no instruction's outcome depends on the line levels, on FR or on BITIDX. -/
def Obligations.LevelsAndTransientsAreNeverRead : Prop :=
  ∀ (i : Instr) (s : State) (lv : Levels) (f : Option FrameWord) (b : Option (BitVec 4)),
    exec i { s with lvl := lv, fr := f, bitidx := b } = exec i s

/-! ## Construction and initialisation -/

/-- 42_init.md, `construct`: a new instance, with or without an old one. Nothing is said of the line levels, which
are free values (log 3). -/
def Obligations.ConstructMakesANewInstance : Prop :=
  ∀ (s : State) (a b c : LineId), s.seq = [] → a ≠ b → a ≠ c → b ≠ c →
    ∃ t, exec (.construct a b c) s = .next t ∧
      t.pins = some ⟨a, b, c⟩ ∧ t.func = s.cfg.funcReset ∧ t.ctrl = .unwritten ∧ t.entry = .unwritten ∧
      t.lines = .unwritten ∧ t.trace = [.cfg .sck, .cfg .stb, .cfg .sda] ∧
      t.fr = none ∧ t.bitidx = none ∧ t.seq = [] ∧ t.returned = [] ∧
      t.cfg = s.cfg ∧ t.program = s.program ∧ t.stepwise = s.stepwise

/-- 42_init.md, `construct`, first line: two equal identifiers are refused. -/
def Obligations.ConstructRefusesEqualPins : Prop :=
  ∀ (s : State) (a b c : LineId), s.seq = [] → (a = b ∨ a = c ∨ b = c) →
    exec (.construct a b c) s = .refused .pinsNotDistinct

/-- 42_init.md, `construct`, corner case: all earlier state is discarded, so the outcome depends on nothing but the
parameters, the host's program and the model's own counter and representation. -/
def Obligations.ConstructForgetsTheOldInstance : Prop :=
  ∀ (s s' : State) (a b c : LineId), s.seq = [] → s'.seq = [] → s.cfg = s'.cfg → s.program = s'.program →
    s.stepwise = s'.stepwise → s.fresh = s'.fresh → exec (.construct a b c) s = exec (.construct a b c) s'

/-- 70_reset_and_hazards.md, section 1: reset is `construct`, run from no instance; the identifiers are the model's
choice (log 2). -/
def Obligations.ResetIsConstruct : Prop :=
  exec (.construct 2 3 4) State.noInstance = .next State.reset

/-- 10_state.md, section 9, the reset table under the default parameters (log 1); the identifiers are the model's
choice (log 2) and the levels are not said. -/
def Obligations.ResetValues : Prop :=
  State.reset.func = 0x10 ∧ State.reset.ctrl = .unwritten ∧ State.reset.entry = .unwritten ∧
    State.reset.lines = .unwritten ∧ State.reset.fr = none ∧ State.reset.bitidx = none ∧
    State.reset.trace = [.cfg .sck, .cfg .stb, .cfg .sda] ∧ State.reset.seq = [] ∧ State.reset.pins ≠ none

/-- 42_init.md, `begin`: its register writes, then the five steps in order. -/
def Obligations.BeginRunsTheBringUp : Prop :=
  ∀ (s : State) (cols rows : Byte), s.pins ≠ none → s.seq = [] →
    let P := s.cfg
    let func := if rows.toNat > 1 then s.func ||| P.func2Line else s.func
    let written : State :=
      { s with lines := .val rows, func := func, ctrl := .val P.ctrlInit, entry := .val P.entryInit }
    let powered := written.waited P.tPowerup
    let cleared := (powered.sent (frameWord P.modeCmd P.opClear)).waited P.tClear
    let displayed := (cleared.sent (frameWord P.modeCmd (P.opCtrl ||| P.ctrlInit))).waited P.tCmd
    let entered := (displayed.sent (frameWord P.modeCmd (P.opEntry ||| P.entryInit))).waited P.tCmd
    exec (.begin cols rows) s = .next ((entered.sent (frameWord P.modeCmd (P.opFunc ||| func))).waited P.tCmd)

/-- 42_init.md, the two-line flag and repeating `begin`: a second `begin` writes CTRL and ENTRY again, keeps what FUNC
has gathered, and sends FUNCTION_SET last with the flag still set. -/
def Obligations.SecondBeginKeepsTheTwoLineFlag : Prop :=
  ∀ (s t u : State) (c r c' r' : Byte), exec (.begin c r) s = .next t → exec (.begin c' r') t = .next u →
    u.ctrl = .val s.cfg.ctrlInit ∧ u.entry = .val s.cfg.entryInit ∧ u.lines = .val r' ∧
    u.func = (if r.toNat > 1 ∨ r'.toNat > 1 then s.func ||| s.cfg.func2Line else s.func) ∧
    (framesOf u.trace).getLast? = some (frameWord s.cfg.modeCmd (s.cfg.opFunc ||| u.func))

/-- 42_init.md R89: `cols` is not used; the requests of two such calls are indistinguishable to the step too. -/
def Obligations.BeginIgnoresColumns : Prop :=
  (∀ (s : State) (cols cols' rows : Byte), exec (.begin cols rows) s = exec (.begin cols' rows) s) ∧
  (∀ (s : State) (cols cols' rows : Byte) (g g' : BitVec 64) (rs : List Request), s.seq = [] →
    step { s with program := ⟨requestWord 1 cols rows, g⟩ :: rs } =
      step { s with program := ⟨requestWord 1 cols' rows, g'⟩ :: rs })

/-! ## Toggles -/

/-- 43_toggles.md, the six operations: one bit of CTRL is set or cleared, and the whole register is sent. -/
def Obligations.TogglesChangeTheirBitAndSendTheRegister : Prop :=
  ∀ (s : State) (c : Byte), s.pins ≠ none → s.seq = [] → s.ctrl = .val c →
    let after (v : Byte) : Host.Outcome State Fault Refusal :=
      .next (({ s with ctrl := .val v } : State).sent (frameWord s.cfg.modeCmd (s.cfg.opCtrl ||| v)))
    exec .display s = after (c ||| s.cfg.ctrlDisplay) ∧
    exec .noDisplay s = after (c &&& ~~~s.cfg.ctrlDisplay) ∧
    exec .cursor s = after (c ||| s.cfg.ctrlCursor) ∧
    exec .noCursor s = after (c &&& ~~~s.cfg.ctrlCursor) ∧
    exec .blink s = after (c ||| s.cfg.ctrlBlink) ∧
    exec .noBlink s = after (c &&& ~~~s.cfg.ctrlBlink)

/-- 43_toggles.md, the common pattern: before the first `begin` a toggle is refused. -/
def Obligations.TogglesRefusedBeforeBegin : Prop :=
  ∀ (s : State) (i : Instr), s.pins ≠ none → s.seq = [] → s.ctrl = .unwritten →
    i ∈ [Instr.display, .noDisplay, .cursor, .noCursor, .blink, .noBlink] →
    exec i s = .refused .ctrlUnwritten

/-- 43_toggles.md, toggle independence, and the source's test: from any CTRL, `cursor`, `blink`, `noCursor` leave
blink set, the cursor clear and the display bit as it was. -/
def Obligations.TogglesAreIndependent : Prop :=
  ∀ (s : State) (c : Byte), s.cfg.Valid → s.pins ≠ none → s.seq = [] → s.ctrl = .val c →
    ∃ t u v c', exec .cursor s = .next t ∧ exec .blink t = .next u ∧ exec .noCursor u = .next v ∧
      v.ctrl = .val c' ∧ c' &&& s.cfg.ctrlBlink = s.cfg.ctrlBlink ∧ c' &&& s.cfg.ctrlCursor = 0 ∧
      c' &&& s.cfg.ctrlDisplay = c &&& s.cfg.ctrlDisplay

/-! ## Clear, home, cursor position -/

/-- 48_clear_home.md R110: `clear` sends CLEAR_DISPLAY and waits `T_CLEAR`, before `begin` too, and changes no
register; 87 events, twice if issued twice. -/
def Obligations.ClearSendsAndWaits : Prop :=
  (∀ s : State, s.pins ≠ none → s.seq = [] →
    exec .clear s = .next ((s.sent (frameWord s.cfg.modeCmd s.cfg.opClear)).waited s.cfg.tClear)) ∧
  (∀ s t : State, exec .clear s = .next t →
    t.trace.length = s.trace.length + 87 ∧
    unitsOf t.trace = unitsOf s.trace + (2 * s.cfg.tStb + 32 * s.cfg.tHalf) + s.cfg.tClear ∧
    (s.cfg = Params.default → unitsOf t.trace = unitsOf s.trace + 2066 ∧
      framesOf t.trace = framesOf s.trace ++ [0xF801])) ∧
  (∀ s t u : State, exec .clear s = .next t → exec .clear t = .next u →
    u = (((s.sent (frameWord s.cfg.modeCmd s.cfg.opClear)).waited s.cfg.tClear).sent
      (frameWord s.cfg.modeCmd s.cfg.opClear)).waited s.cfg.tClear) ∧
  (∀ (a b : Byte) (g : BitVec 64), decodeRequest ⟨requestWord 2 a b, g⟩ = .ok .clear)

/-- 48_clear_home.md R111: `home` sends RETURN_HOME and nothing after it, before `begin` too; 86 events. -/
def Obligations.HomeSendsOneFrame : Prop :=
  (∀ s : State, s.pins ≠ none → s.seq = [] →
    exec .home s = .next (s.sent (frameWord s.cfg.modeCmd s.cfg.opHome))) ∧
  (∀ s t : State, exec .home s = .next t →
    t.trace.length = s.trace.length + 86 ∧
    unitsOf t.trace = unitsOf s.trace + (2 * s.cfg.tStb + 32 * s.cfg.tHalf) ∧
    (s.cfg = Params.default → unitsOf t.trace = unitsOf s.trace + 66 ∧
      framesOf t.trace = framesOf s.trace ++ [0xF802])) ∧
  (∀ (a b : Byte) (g : BitVec 64), decodeRequest ⟨requestWord 3 a b, g⟩ = .ok .home)

/-- 44_cursor_position.md, `setCursor`: one frame with the address sum truncated under the opcode; no register. -/
def Obligations.SetCursorSendsTheAddress : Prop :=
  ∀ (s : State) (col row : Byte), s.pins ≠ none → s.seq = [] →
    exec (.setCursor col row) s = .next (s.sent (frameWord s.cfg.modeCmd
      (BitVec.ofNat 8 (s.cfg.opDdram.toNat |||
        (col.toNat + if row.toNat > 0 then s.cfg.row1Offset.toNat else 0)))))

/-- 30_encoding.md, section 3, and 44_cursor_position.md, the arithmetic corner cases: whatever the operands, the
frame decodes as SET_DDRAM_ADDR with the address sum modulo 128. -/
def Obligations.SetCursorAddressIsModulo128 : Prop :=
  ∀ (s : State) (col row : Byte), s.cfg.Valid → s.pins ≠ none → s.seq = [] →
    ∃ t w, exec (.setCursor col row) s = .next t ∧ (framesOf t.trace).getLast? = some w ∧
      decodeFrame s.cfg w = .setDdramAddr
        (BitVec.ofNat 8 ((col.toNat + if row.toNat > 0 then s.cfg.row1Offset.toNat else 0) % 128))

/-! ## Brightness -/

/-- 45_brightness.md, `setBrightness`: the code of a recognised level goes into FUNC, masked first only under
BRIGHTNESS_MASKING; FUNCTION_SET is sent always. -/
def Obligations.SetBrightnessSendsTheRegister : Prop :=
  ∀ (s : State) (level : Byte), s.pins ≠ none → s.seq = [] →
    let base := if s.cfg.brightnessMasking then s.func &&& ~~~s.cfg.brtMask else s.func
    let func :=
      if level.toNat = 100 then base ||| s.cfg.brtCode100
      else if level.toNat = 75 then base ||| s.cfg.brtCode75
      else if level.toNat = 50 then base ||| s.cfg.brtCode50
      else if level.toNat = 25 then base ||| s.cfg.brtCode25
      else s.func
    exec (.setBrightness level) s =
      .next (({ s with func := func } : State).sent (frameWord s.cfg.modeCmd (s.cfg.opFunc ||| func)))

/-- 45_brightness.md R102: a level that is none of the four changes no bit of FUNC, and the register is sent as it
is; nothing is returned. -/
def Obligations.UnrecognisedLevelOnlyRetransmits : Prop :=
  (∀ (s : State) (level : Byte), s.pins ≠ none → s.seq = [] → level.toNat ∉ [100, 75, 50, 25] →
    ∃ t, exec (.setBrightness level) s = .next t ∧
      t = s.sent (frameWord s.cfg.modeCmd (s.cfg.opFunc ||| s.func)) ∧
      t.func = s.func ∧ t.returned = s.returned) ∧
  (∀ s t : State, s.cfg = Params.default → s.func = 0x18 → exec (.setBrightness 60) s = .next t →
    t.func = 0x18 ∧ framesOf t.trace = framesOf s.trace ++ [0xF838])

/-- 45_brightness.md, accumulation: without masking the brightness field gathers codes and the other bits of FUNC
keep their values; two levels give the same FUNC in either order. -/
def Obligations.BrightnessAccumulates : Prop :=
  ∀ (s t u t' u' : State) (a b : Byte), s.cfg.Valid → s.cfg.brightnessMasking = false →
    exec (.setBrightness a) s = .next t → exec (.setBrightness b) t = .next u →
    exec (.setBrightness b) s = .next t' → exec (.setBrightness a) t' = .next u' →
    t.func &&& s.cfg.brtMask = (s.func &&& s.cfg.brtMask) ||| (brightnessCode s.cfg a).getD 0 ∧
    t.func &&& ~~~s.cfg.brtMask = s.func &&& ~~~s.cfg.brtMask ∧
    u.func &&& s.cfg.brtMask = (t.func &&& s.cfg.brtMask) ||| (brightnessCode s.cfg b).getD 0 ∧
    u.func = u'.func

/-- 45_brightness.md, the masking alternative: the last recognised level's code is the field, and the other bits keep
their values. -/
def Obligations.MaskedBrightnessIsTheLastLevel : Prop :=
  ∀ (s t : State) (level code : Byte), s.cfg.Valid → s.cfg.brightnessMasking = true →
    exec (.setBrightness level) s = .next t → brightnessCode s.cfg level = some code →
    t.func &&& s.cfg.brtMask = code ∧ t.func &&& ~~~s.cfg.brtMask = s.func &&& ~~~s.cfg.brtMask

/-- 10_state.md, section 4: without masking no instruction but a new `construct` clears a bit of FUNC. -/
def Obligations.FunctionRegisterIsMonotone : Prop :=
  ∀ (i : Instr) (s t : State), s.cfg.brightnessMasking = false → (∀ a b c, i ≠ .construct a b c) →
    exec i s = .next t → t.func &&& s.func = s.func

/-! ## Glyphs and characters -/

/-- 46_custom_glyph.md, `createChar`: ten frames, the address, the eight bytes in index order, the tail. -/
def Obligations.CreateCharSendsTenFrames : Prop :=
  ∀ (s : State) (location : Byte) (glyph : List Byte), s.pins ≠ none → s.seq = [] → glyph.length = 8 →
    let P := s.cfg
    let addressed := s.sent (frameWord P.modeCmd (P.opCgram ||| ((location &&& P.locMask) <<< P.cgramShift)))
    let stored := glyph.foldl (fun u v => u.sent (frameWord P.modeData v)) addressed
    let tail := match P.createCharTail with
      | .home => P.opHome
      | .ddram0 => P.opDdram
    exec (.createChar location glyph) s = .next (stored.sent (frameWord P.modeCmd tail))

/-- 46_custom_glyph.md R106: a location acts as its low three bits; the first frame's payload for each. -/
def Obligations.GlyphLocationWraps : Prop :=
  (∀ (s : State) (location : Byte) (glyph : List Byte), s.cfg.locMask = 7 →
    exec (.createChar location glyph) s = exec (.createChar (location &&& 7) glyph) s) ∧
  (∀ (s : State) (glyph : List Byte), s.cfg.locMask = 7 →
    exec (.createChar 9 glyph) s = exec (.createChar 1 glyph) s ∧
    exec (.createChar 8 glyph) s = exec (.createChar 0 glyph) s ∧
    exec (.createChar 255 glyph) s = exec (.createChar 7 glyph) s) ∧
  (∀ (s t : State) (location : Byte) (glyph : List Byte), s.cfg = Params.default →
    exec (.createChar location glyph) s = .next t →
    (framesOf t.trace)[(framesOf s.trace).length]? =
      some (frameWord 0xF8 ([0x40, 0x48, 0x50, 0x58, 0x60, 0x68, 0x70, 0x78].getD (location.toNat % 8) 0)))

/-- 60_exceptions.md, section 4: a glyph of other than eight bytes is refused. -/
def Obligations.GlyphLengthRefused : Prop :=
  ∀ (s : State) (location : Byte) (glyph : List Byte), s.pins ≠ none → s.seq = [] → glyph.length ≠ 8 →
    exec (.createChar location glyph) s = .refused .glyphLength

/-- 47_write.md: one data frame with the byte unchanged, and the count 1 returned. The list it is returned in is the
model's (log 12). -/
def Obligations.WriteSendsTheByteAndReturnsOne : Prop :=
  ∀ (s : State) (byte : Byte), s.pins ≠ none → s.seq = [] →
    exec (.write byte) s = .next
      { s.sent (frameWord s.cfg.modeData byte) with returned := s.returned ++ [1] }

/-- 49_laws_and_control.md, stores: `setCursor` then `write` ask the chip for one store, at the position's DDRAM
address. The store list is a reading of the trace under 20_memory.md's implications (log 11). -/
def Obligations.WriteStoresAtTheCursor : Prop :=
  ∀ (s t u : State) (col row byte : Byte), s.cfg.Valid →
    exec (.setCursor col row) s = .next t → exec (.write byte) t = .next u →
    storesOf s.cfg (framesOf u.trace) = storesOf s.cfg (framesOf s.trace) ++
      [⟨.at .ddram ((col.toNat + if row.toNat > 0 then s.cfg.row1Offset.toNat else 0) % 128), 0, byte⟩]

/-- 20_memory.md, section 1, and 46_custom_glyph.md, the tail: the glyph's rows are stored one after another from
the glyph's CGRAM address, and a `write` that follows is stored in DDRAM at the home position (log 11). The places
are counted, in no direction (the model's choice, log 23). -/
def Obligations.GlyphRowsStoreInOrder : Prop :=
  ∀ (s t u : State) (location byte : Byte) (glyph : List Byte), s.cfg.Valid →
    exec (.createChar location glyph) s = .next t → exec (.write byte) t = .next u →
    storesOf s.cfg (framesOf u.trace) = storesOf s.cfg (framesOf s.trace) ++
      glyph.mapIdx (fun k v =>
        ⟨.at .cgram ((location.toNat &&& s.cfg.locMask.toNat) <<< s.cfg.cgramShift), k, v⟩) ++
      [⟨match s.cfg.createCharTail with
        | .home => .home
        | .ddram0 => .at .ddram 0, 0, byte⟩]

/-! ## Refusals -/

/-- 60_exceptions.md, section 4, `NotConstructed`: without an instance nothing runs but `construct`. That this check
comes before the others is the model's choice (log 13). -/
def Obligations.NothingRunsWithoutAnInstance : Prop :=
  ∀ (i : Instr) (s : State), s.pins = none → (∀ a b c, i ≠ .construct a b c) →
    exec i s = .refused .notConstructed

/-- 60_exceptions.md, section 4, `Reentered`: no host operation is accepted while another is running. That this
check comes before an operation's own is the model's choice (log 13). -/
def Obligations.HostOperationsDoNotReenter : Prop :=
  ∀ (i : Instr) (s : State), i.isHostOp = true → s.pins ≠ none → s.seq ≠ [] →
    exec i s = .refused .reentered

/-- 60_exceptions.md, section 4, the list is closed: with an instance and nothing running, an instruction completes
except for the three refusals its operands or CTRL call for. -/
def Obligations.NoOtherRequestIsRefused : Prop :=
  ∀ (i : Instr) (s : State), s.pins ≠ none → s.seq = [] →
    ((∃ t, exec i s = .next t) ↔
      (i ∈ [Instr.display, .noDisplay, .cursor, .noCursor, .blink, .noBlink] → s.ctrl ≠ .unwritten) ∧
      (∀ a b c, i = .construct a b c → a ≠ b ∧ a ≠ c ∧ b ≠ c) ∧
      (∀ l g, i = .createChar l g → g.length = 8))

/-! ## Decoding and encoding -/

/-- 30_encoding.md, sections 2, 3 and 5: every well-formed instruction is what its encoding decodes to, under every
parameter record the constraints allow. The third identifier of `construct` and the inner calls are the model's
encodings (logs 8, 10). -/
def Obligations.DecodeInvertsEncode : Prop :=
  ∀ (P : Params) (i : Instr), P.Valid → i.wf P = true → decode P (encode P i) = .ok i

/-- 30_encoding.md, sections 1 to 4: every 16-bit word decodes to an instruction that puts that very word on the
wire. The spec gives no row to a command payload the decision leaves over or to a foreign mode byte; that such a
word decodes as `command` or `transmit` is the model's choice (DESIGN CHOICE, log 8). -/
def Obligations.DecodingKeepsEveryFrameBit : Prop :=
  ∀ (P : Params) (w : FrameWord), P.Valid → instrWord P (decodeFrame P w) = some w

/-- 30_encoding.md, section 2, the frame values under the default parameters, by payload range; the payloads the
decision leaves over are of no frame type and decode as the bare command (the defaults: log 1; the bare command: log
8). -/
def Obligations.CommandPayloadRanges : Prop :=
  ∀ v : Byte,
    (0x80 ≤ v.toNat → decodeFrame Params.default (frameWord 0xF8 v) = .setDdramAddr (v - 0x80)) ∧
    (0x40 ≤ v.toNat ∧ v.toNat ≤ 0x7F → decodeFrame Params.default (frameWord 0xF8 v) = .setCgramAddr (v - 0x40)) ∧
    (0x20 ≤ v.toNat ∧ v.toNat ≤ 0x3F → decodeFrame Params.default (frameWord 0xF8 v) = .functionSet (v - 0x20)) ∧
    (0x10 ≤ v.toNat ∧ v.toNat ≤ 0x1F → decodeFrame Params.default (frameWord 0xF8 v) = .command v) ∧
    (0x08 ≤ v.toNat ∧ v.toNat ≤ 0x0F → decodeFrame Params.default (frameWord 0xF8 v) = .displayControl (v - 0x08)) ∧
    (0x04 ≤ v.toNat ∧ v.toNat ≤ 0x07 → decodeFrame Params.default (frameWord 0xF8 v) = .entryModeSet (v - 0x04)) ∧
    (v.toNat = 0x03 → decodeFrame Params.default (frameWord 0xF8 v) = .command v) ∧
    (v.toNat = 0x02 → decodeFrame Params.default (frameWord 0xF8 v) = .returnHome) ∧
    (v.toNat = 0x01 → decodeFrame Params.default (frameWord 0xF8 v) = .clearDisplay) ∧
    (v.toNat = 0x00 → decodeFrame Params.default (frameWord 0xF8 v) = .command v) ∧
    decodeFrame Params.default (frameWord 0xFA v) = .dataWrite v

/-- 30_encoding.md, section 5: a request selects a host operation, never an inner one, with an eight-byte glyph where
there is one; select codes 14 and 15 select nothing. -/
def Obligations.RequestsSelectHostOperations : Prop :=
  (∀ (r : Request) (i : Instr) (P : Params), decodeRequest r = .ok i →
    i.isHostOp = true ∧ i.wf P = true ∧ r.op.toNat ≤ 13) ∧
  (∀ r : Request, 14 ≤ r.op.toNat → decodeRequest r = .error (.noSuchOperation r.op))

/-- A few words written out from 30_encoding.md and 95_test_vectors.md: three frames, three requests that select an
operation, and one that selects none. The frame words decode so under the default parameter record, which
`decodeTableWord` has in it (PRESUMED, log 1). -/
def Obligations.WordsDecodeToTheirInstructions : Prop :=
  decodeTableWord 16 0xF801 = some .clearDisplay ∧
  decodeTableWord 16 0xF8C5 = some (.setDdramAddr 0x45) ∧
  decodeTableWord 16 0xFA41 = some (.dataWrite 0x41) ∧
  decodeTableWord 24 0x11002 = some (.begin 16 2) ∧
  decodeTableWord 24 0xA0501 = some (.setCursor 5 1) ∧
  decodeTableWord 24 0xB3200 = some (.setBrightness 50) ∧
  decodeTableWord 24 0xE0000 = none

/-! ## The step -/

/-- The step runs the instruction the next call or request decodes to, past it; an idle block with nothing to do
stays as it is, and a select code of nothing is refused (10_state.md, section 5; 60_exceptions.md, sections 4 and
7). The host's list and the representation are the model's (logs 6, 7), and so is that a refusal takes no request
off the list (log 24). -/
def Obligations.StepRunsTheDecodedInstruction : Prop :=
  (∀ (s : State) (r : Request) (rs : List Request) (i : Instr), s.seq = [] → s.stepwise = false →
    s.program = r :: rs → decodeRequest r = .ok i → step s = exec i { s with program := rs }) ∧
  (∀ (s : State) (c : Call) (rest : List SeqStep), s.seq = .call c :: rest → s.stepwise = false →
    step s = exec (decodeCall s.cfg c) { s with seq := rest }) ∧
  (∀ (s : State) (p : Prim) (rest : List SeqStep), s.seq = .prim p :: rest →
    step s = .next (({ s with seq := rest } : State).prim p)) ∧
  (∀ (s : State) (r : Request) (rs : List Request), s.seq = [] → s.program = r :: rs → 14 ≤ r.op.toNat →
    step s = .refused (.noSuchOperation r.op)) ∧
  (∀ s : State, s.seq = [] → s.program = [] → step s = .next s)

/-- 10_state.md, section 5, and decision D2: an operation run step by step, every action of its own, ends in the
state the operation run as one transition gives, with the sequencer idle. Both representations are the model's (log
6). -/
def Obligations.StepwiseRunEqualsWholeOperation : Prop :=
  ∀ (s t : State) (r : Request) (rs : List Request) (i : Instr), s.seq = [] → s.stepwise = true →
    s.program = r :: rs → decodeRequest r = .ok i → exec i { s with program := rs } = .next t →
    t.seq = [] ∧ ∃ n, Sys2Proof.core.run n s = .next t

/-! ## Whole-machine rules -/

/-- 70_reset_and_hazards.md, section 4, and 49_laws_and_control.md, control transfer: the number of events of an
operation and the sum of its waits do not depend on its operands. -/
def Obligations.OperationLengthsAreFixed : Prop :=
  ∀ (i : Instr) (s t : State), exec i s = .next t →
    let frame := 2 * s.cfg.tStb + 32 * s.cfg.tHalf
    match i with
    | .construct _ _ _ => t.trace.length = 3 ∧ unitsOf t.trace = 0
    | .begin _ _ => t.trace.length = s.trace.length + 349 ∧
        unitsOf t.trace = unitsOf s.trace + 4 * frame + s.cfg.tPowerup + s.cfg.tClear + 3 * s.cfg.tCmd
    | .clear => t.trace.length = s.trace.length + 87 ∧ unitsOf t.trace = unitsOf s.trace + frame + s.cfg.tClear
    | .createChar _ _ => t.trace.length = s.trace.length + 860 ∧ unitsOf t.trace = unitsOf s.trace + 10 * frame
    | _ => t.trace.length = s.trace.length + 86 ∧ unitsOf t.trace = unitsOf s.trace + frame

/-- 10_state.md, section 10, the transition table: each register is written by the operations the table names and by
no other instruction; the pins are written by `construct` alone, the trace only grows, and a value is returned
by `write` alone. -/
def Obligations.RegistersHaveOnlyTheirWriters : Prop :=
  ∀ (i : Instr) (s t : State), exec i s = .next t → (∀ a b c, i ≠ .construct a b c) →
    t.cfg = s.cfg ∧ t.pins = s.pins ∧ t.seq = s.seq ∧ t.program = s.program ∧ t.stepwise = s.stepwise ∧
    t.fresh = s.fresh ∧ t.fr = none ∧ t.bitidx = none ∧ (∃ es, t.trace = s.trace ++ es) ∧
    ((∀ c r, i ≠ .begin c r) → t.entry = s.entry ∧ t.lines = s.lines) ∧
    ((∀ c r, i ≠ .begin c r) → i ∉ [Instr.display, .noDisplay, .cursor, .noCursor, .blink, .noBlink] →
      t.ctrl = s.ctrl) ∧
    ((∀ c r, i ≠ .begin c r) → (∀ l, i ≠ .setBrightness l) → t.func = s.func) ∧
    (∀ b, i = .write b → t.returned = s.returned ++ [1]) ∧
    ((∀ b, i ≠ .write b) → t.returned = s.returned)

/-- 00_scope.md, section 3: the default parameter record meets the constraints (with log 14's). -/
def Obligations.DefaultParametersAreValid : Prop := Params.default.Valid

/-- The invariant holds at reset (10_state.md, section 9). -/
def Obligations.InvariantHoldsAtReset : Prop := State.reset.Inv

/-- 41_command_frames.md, closure; 10_state.md, section 10, shadow consistency, and section 4, the unnamed bits and
ENTRY; 40_transport.md, section 3, the lines at rest: every step of host operations keeps them. Stated for one
transition per operation (log 6). -/
def Obligations.StepKeepsTheInvariant : Prop :=
  ∀ s t : State, s.Inv → step s = .next t → t.Inv
end

