-- ==== Sys2Proof/Laws/State.lean ====
section
/-!
SUPPORT. One lemma per field per update of the state, true by unfolding, so that no proof unfolds an update.
-/

namespace Sys2Proof.Machine

/-! ## Emitting an event -/

@[simp] theorem State.emit_cfg (s : State) (e : Event) : (s.emit e).cfg = s.cfg := rfl
@[simp] theorem State.emit_pins (s : State) (e : Event) : (s.emit e).pins = s.pins := rfl
@[simp] theorem State.emit_lvl (s : State) (e : Event) : (s.emit e).lvl = s.lvl.after e := rfl
@[simp] theorem State.emit_func (s : State) (e : Event) : (s.emit e).func = s.func := rfl
@[simp] theorem State.emit_ctrl (s : State) (e : Event) : (s.emit e).ctrl = s.ctrl := rfl
@[simp] theorem State.emit_entry (s : State) (e : Event) : (s.emit e).entry = s.entry := rfl
@[simp] theorem State.emit_lines (s : State) (e : Event) : (s.emit e).lines = s.lines := rfl
@[simp] theorem State.emit_fr (s : State) (e : Event) : (s.emit e).fr = s.fr := rfl
@[simp] theorem State.emit_bitidx (s : State) (e : Event) : (s.emit e).bitidx = s.bitidx := rfl
@[simp] theorem State.emit_seq (s : State) (e : Event) : (s.emit e).seq = s.seq := rfl
@[simp] theorem State.emit_trace (s : State) (e : Event) : (s.emit e).trace = s.trace ++ [e] := rfl
@[simp] theorem State.emit_returned (s : State) (e : Event) : (s.emit e).returned = s.returned := rfl
@[simp] theorem State.emit_program (s : State) (e : Event) : (s.emit e).program = s.program := rfl
@[simp] theorem State.emit_stepwise (s : State) (e : Event) : (s.emit e).stepwise = s.stepwise := rfl
@[simp] theorem State.emit_fresh (s : State) (e : Event) : (s.emit e).fresh = s.fresh := rfl

/-! ## A frame sent -/

@[simp] theorem State.sent_cfg (s : State) (w : FrameWord) : (s.sent w).cfg = s.cfg := rfl
@[simp] theorem State.sent_pins (s : State) (w : FrameWord) : (s.sent w).pins = s.pins := rfl
@[simp] theorem State.sent_lvl (s : State) (w : FrameWord) : (s.sent w).lvl = ⟨true, true, w.getLsbD 0⟩ := rfl
@[simp] theorem State.sent_func (s : State) (w : FrameWord) : (s.sent w).func = s.func := rfl
@[simp] theorem State.sent_ctrl (s : State) (w : FrameWord) : (s.sent w).ctrl = s.ctrl := rfl
@[simp] theorem State.sent_entry (s : State) (w : FrameWord) : (s.sent w).entry = s.entry := rfl
@[simp] theorem State.sent_lines (s : State) (w : FrameWord) : (s.sent w).lines = s.lines := rfl
@[simp] theorem State.sent_fr (s : State) (w : FrameWord) : (s.sent w).fr = none := rfl
@[simp] theorem State.sent_bitidx (s : State) (w : FrameWord) : (s.sent w).bitidx = none := rfl
@[simp] theorem State.sent_seq (s : State) (w : FrameWord) : (s.sent w).seq = s.seq := rfl
@[simp] theorem State.sent_trace (s : State) (w : FrameWord) : (s.sent w).trace = s.trace ++ frameEvents s.cfg w := rfl
@[simp] theorem State.sent_returned (s : State) (w : FrameWord) : (s.sent w).returned = s.returned := rfl
@[simp] theorem State.sent_program (s : State) (w : FrameWord) : (s.sent w).program = s.program := rfl
@[simp] theorem State.sent_stepwise (s : State) (w : FrameWord) : (s.sent w).stepwise = s.stepwise := rfl
@[simp] theorem State.sent_fresh (s : State) (w : FrameWord) : (s.sent w).fresh = s.fresh := rfl

/-! ## A wait made -/

@[simp] theorem State.waited_cfg (s : State) (n : Nat) : (s.waited n).cfg = s.cfg := rfl
@[simp] theorem State.waited_pins (s : State) (n : Nat) : (s.waited n).pins = s.pins := rfl
@[simp] theorem State.waited_lvl (s : State) (n : Nat) : (s.waited n).lvl = s.lvl := rfl
@[simp] theorem State.waited_func (s : State) (n : Nat) : (s.waited n).func = s.func := rfl
@[simp] theorem State.waited_ctrl (s : State) (n : Nat) : (s.waited n).ctrl = s.ctrl := rfl
@[simp] theorem State.waited_entry (s : State) (n : Nat) : (s.waited n).entry = s.entry := rfl
@[simp] theorem State.waited_lines (s : State) (n : Nat) : (s.waited n).lines = s.lines := rfl
@[simp] theorem State.waited_fr (s : State) (n : Nat) : (s.waited n).fr = s.fr := rfl
@[simp] theorem State.waited_bitidx (s : State) (n : Nat) : (s.waited n).bitidx = s.bitidx := rfl
@[simp] theorem State.waited_seq (s : State) (n : Nat) : (s.waited n).seq = s.seq := rfl
@[simp] theorem State.waited_trace (s : State) (n : Nat) : (s.waited n).trace = s.trace ++ [.wait n] := rfl
@[simp] theorem State.waited_returned (s : State) (n : Nat) : (s.waited n).returned = s.returned := rfl
@[simp] theorem State.waited_program (s : State) (n : Nat) : (s.waited n).program = s.program := rfl
@[simp] theorem State.waited_stepwise (s : State) (n : Nat) : (s.waited n).stepwise = s.stepwise := rfl
@[simp] theorem State.waited_fresh (s : State) (n : Nat) : (s.waited n).fresh = s.fresh := rfl

/-! ## A new instance -/

@[simp] theorem State.newInstance_cfg (s : State) (a b c : LineId) : (s.newInstance a b c).cfg = s.cfg := rfl
@[simp] theorem State.newInstance_pins (s : State) (a b c : LineId) : (s.newInstance a b c).pins = some ⟨a, b, c⟩ := rfl
@[simp] theorem State.newInstance_lvl (s : State) (a b c : LineId) : (s.newInstance a b c).lvl = ⟨Config.freeLevel s.fresh, Config.freeLevel (s.fresh + 1), Config.freeLevel (s.fresh + 2)⟩ := rfl
@[simp] theorem State.newInstance_func (s : State) (a b c : LineId) : (s.newInstance a b c).func = s.cfg.funcReset := rfl
@[simp] theorem State.newInstance_ctrl (s : State) (a b c : LineId) : (s.newInstance a b c).ctrl = .unwritten := rfl
@[simp] theorem State.newInstance_entry (s : State) (a b c : LineId) : (s.newInstance a b c).entry = .unwritten := rfl
@[simp] theorem State.newInstance_lines (s : State) (a b c : LineId) : (s.newInstance a b c).lines = .unwritten := rfl
@[simp] theorem State.newInstance_fr (s : State) (a b c : LineId) : (s.newInstance a b c).fr = none := rfl
@[simp] theorem State.newInstance_bitidx (s : State) (a b c : LineId) : (s.newInstance a b c).bitidx = none := rfl
@[simp] theorem State.newInstance_seq (s : State) (a b c : LineId) : (s.newInstance a b c).seq = s.seq := rfl
@[simp] theorem State.newInstance_trace (s : State) (a b c : LineId) : (s.newInstance a b c).trace = [] := rfl
@[simp] theorem State.newInstance_returned (s : State) (a b c : LineId) : (s.newInstance a b c).returned = [] := rfl
@[simp] theorem State.newInstance_program (s : State) (a b c : LineId) : (s.newInstance a b c).program = s.program := rfl
@[simp] theorem State.newInstance_stepwise (s : State) (a b c : LineId) : (s.newInstance a b c).stepwise = s.stepwise := rfl
@[simp] theorem State.newInstance_fresh (s : State) (a b c : LineId) : (s.newInstance a b c).fresh = s.fresh + 3 := rfl

/-! ## The registers `begin` writes -/

@[simp] theorem State.initRegisters_cfg (s : State) (rows : Byte) : (s.initRegisters rows).cfg = s.cfg := rfl
@[simp] theorem State.initRegisters_pins (s : State) (rows : Byte) : (s.initRegisters rows).pins = s.pins := rfl
@[simp] theorem State.initRegisters_lvl (s : State) (rows : Byte) : (s.initRegisters rows).lvl = s.lvl := rfl
@[simp] theorem State.initRegisters_func (s : State) (rows : Byte) : (s.initRegisters rows).func = withLineCount s.cfg rows s.func := rfl
@[simp] theorem State.initRegisters_ctrl (s : State) (rows : Byte) : (s.initRegisters rows).ctrl = .val s.cfg.ctrlInit := rfl
@[simp] theorem State.initRegisters_entry (s : State) (rows : Byte) : (s.initRegisters rows).entry = .val s.cfg.entryInit := rfl
@[simp] theorem State.initRegisters_lines (s : State) (rows : Byte) : (s.initRegisters rows).lines = .val rows := rfl
@[simp] theorem State.initRegisters_fr (s : State) (rows : Byte) : (s.initRegisters rows).fr = s.fr := rfl
@[simp] theorem State.initRegisters_bitidx (s : State) (rows : Byte) : (s.initRegisters rows).bitidx = s.bitidx := rfl
@[simp] theorem State.initRegisters_seq (s : State) (rows : Byte) : (s.initRegisters rows).seq = s.seq := rfl
@[simp] theorem State.initRegisters_trace (s : State) (rows : Byte) : (s.initRegisters rows).trace = s.trace := rfl
@[simp] theorem State.initRegisters_returned (s : State) (rows : Byte) : (s.initRegisters rows).returned = s.returned := rfl
@[simp] theorem State.initRegisters_program (s : State) (rows : Byte) : (s.initRegisters rows).program = s.program := rfl
@[simp] theorem State.initRegisters_stepwise (s : State) (rows : Byte) : (s.initRegisters rows).stepwise = s.stepwise := rfl
@[simp] theorem State.initRegisters_fresh (s : State) (rows : Byte) : (s.initRegisters rows).fresh = s.fresh := rfl

/-! ## The levels -/

@[simp] theorem Levels.drive_sck (lv : Levels) (b : Bool) : lv.drive .sck b = ⟨b, lv.stb, lv.sda⟩ := rfl
@[simp] theorem Levels.drive_stb (lv : Levels) (b : Bool) : lv.drive .stb b = ⟨lv.sck, b, lv.sda⟩ := rfl
@[simp] theorem Levels.drive_sda (lv : Levels) (b : Bool) : lv.drive .sda b = ⟨lv.sck, lv.stb, b⟩ := rfl
@[simp] theorem Levels.after_cfg (lv : Levels) (l : Line) : lv.after (.cfg l) = lv := rfl
@[simp] theorem Levels.after_set (lv : Levels) (l : Line) (b : Bool) : lv.after (.set l b) = lv.drive l b := rfl
@[simp] theorem Levels.after_wait (lv : Levels) (n : Nat) : lv.after (.wait n) = lv := rfl

end Sys2Proof.Machine
end

