-- ==== Sys2Proof/Laws/Decode.lean ====
section
/-!
SUPPORT. The fields of a frame and of a request word, and the compositions of an opcode with a field under it.
-/

namespace Sys2Proof

/-- Bit by bit, a frame is its mode above its payload (30_encoding.md R44). -/
theorem getLsbD_frameWord (m p : Byte) (i : Nat) (hi : i < 16) :
    (frameWord m p).getLsbD i = if i < 8 then p.getLsbD i else m.getLsbD (i - 8) := by
  by_cases h : i < 8
  · simp [frameWord, h, hi]
  · simp [frameWord, h, hi, BitVec.getLsbD_of_ge p i (by omega)]

@[simp] theorem frameMode_frameWord (m p : Byte) : frameMode (frameWord m p) = m := by
  apply BitVec.eq_of_getLsbD_eq
  intro i hi
  simp [frameMode, getLsbD_frameWord m p (8 + i) (by omega), hi]

@[simp] theorem framePayload_frameWord (m p : Byte) : framePayload (frameWord m p) = p := by
  apply BitVec.eq_of_getLsbD_eq
  intro i hi
  simp [framePayload, getLsbD_frameWord m p i (by omega), hi]

/-- A frame is the composition of its two fields. -/
@[simp] theorem frameWord_fields (w : FrameWord) : frameWord (frameMode w) (framePayload w) = w := by
  apply BitVec.eq_of_getLsbD_eq
  intro i hi
  rw [getLsbD_frameWord _ _ _ hi]
  split
  · simp [framePayload, *]
  · have : 8 + (i - 8) = i := by omega
    have : i - 8 < 8 := by omega
    simp [frameMode, *]

/-- Two frames are equal exactly when their fields are. -/
theorem frameWord_inj {m p m' p' : Byte} (h : frameWord m p = frameWord m' p') : m = m' ∧ p = p' :=
  ⟨by simpa using congrArg frameMode h, by simpa using congrArg framePayload h⟩

/-- Bit by bit, a request word is its select code above its two operands (30_encoding.md R55). -/
theorem getLsbD_requestWord (op : BitVec 4) (a b : Byte) (i : Nat) (hi : i < 20) :
    (requestWord op a b).getLsbD i =
      if i < 8 then b.getLsbD i else if i < 16 then a.getLsbD (i - 8) else op.getLsbD (i - 16) := by
  by_cases h : i < 8
  · have h' : i < 16 := by omega
    simp [requestWord, h, hi, h']
  · by_cases h' : i < 16
    · simp [requestWord, h, hi, h', BitVec.getLsbD_of_ge b i (by omega)]
    · simp [requestWord, h, hi, h', BitVec.getLsbD_of_ge b i (by omega),
        BitVec.getLsbD_of_ge a (i - 8) (by omega)]

@[simp] theorem op_requestWord (op : BitVec 4) (a b : Byte) (g : BitVec 64) :
    (Request.mk (requestWord op a b) g).op = op := by
  apply BitVec.eq_of_getLsbD_eq
  intro i hi
  have h : ¬ 16 + i < 8 := by omega
  simp [Request.op, getLsbD_requestWord op a b (16 + i) (by omega), hi, h]

@[simp] theorem a_requestWord (op : BitVec 4) (a b : Byte) (g : BitVec 64) :
    (Request.mk (requestWord op a b) g).a = a := by
  apply BitVec.eq_of_getLsbD_eq
  intro i hi
  have h : ¬ 8 + i < 8 := by omega
  have h' : 8 + i < 16 := by omega
  simp [Request.a, getLsbD_requestWord op a b (8 + i) (by omega), hi, h']

@[simp] theorem b_requestWord (op : BitVec 4) (a b : Byte) (g : BitVec 64) :
    (Request.mk (requestWord op a b) g).b = b := by
  apply BitVec.eq_of_getLsbD_eq
  intro i hi
  simp [Request.b, getLsbD_requestWord op a b i (by omega), hi]

end Sys2Proof
end

