-- ==== Sys2Proof/Laws/Transport.lean ====
section
/-!
SUPPORT. What a transmission does, said once: the state it leaves, the events, their number and their time, and how
the frame list reads it back.
-/

namespace Sys2Proof.Machine

/-- One bit: its level is placed, then the clock pulses and ends low (40_transport.md R67, R68). -/
theorem foldl_bitPrim (P : Params) (s : State) (w : FrameWord) (h : s.fr = some w) (i : BitVec 4) :
    (Prim.bit i :: pulsePrims P).foldl State.prim s =
      { s with
        trace := s.trace ++ bitEvents P (w.getLsbD i.toNat)
        lvl := ⟨false, s.lvl.stb, w.getLsbD i.toNat⟩
        bitidx := some i } := by
  simp [pulsePrims, State.prim, h, State.emit, Levels.after, Levels.drive, bitEvents]

/-- The last `n` bits of a frame, from bit `n-1` down to bit 0. -/
def lastBits (w : FrameWord) : Nat → List Bool
  | 0 => []
  | n + 1 => w.getLsbD n :: lastBits w n

theorem lastBits_all (w : FrameWord) : lastBits w 16 = bitsDown w := by
  simp [lastBits, bitsDown, List.range_succ]

/-- The bit loop from bit `n` down to bit 0 (40_transport.md R67). -/
theorem foldl_bitPrims (P : Params) (w : FrameWord) (n : Nat) (hn : n < 16) (s : State) (h : s.fr = some w) :
    (bitPrims P (n + 1)).foldl State.prim s =
      { s with
        trace := s.trace ++ (lastBits w (n + 1)).flatMap (bitEvents P)
        lvl := ⟨false, s.lvl.stb, w.getLsbD 0⟩
        bitidx := some 0 } := by
  induction n generalizing s with
  | zero => simpa [bitPrims, lastBits] using foldl_bitPrim P s w h 0
  | succ n ih =>
    have hb : (BitVec.ofNat 4 (n + 1)).toNat = n + 1 := by simp; omega
    have step := foldl_bitPrim P s w h (BitVec.ofNat 4 (n + 1))
    rw [hb] at step
    rw [bitPrims, ← List.cons_append, List.foldl_append, step]
    exact (ih (by omega) _ (by exact h)).trans (by simp [lastBits])

/-- `transmit` leaves the state with one frame more (40_transport.md R70, R71). -/
@[simp] theorem State.transmit_eq (s : State) (w : FrameWord) : s.transmit w = s.sent w := by
  have loop := foldl_bitPrims s.cfg w 15 (by omega)
    ([.load w, .set .stb false, .wait s.cfg.tStb, .set .sck false].foldl State.prim s) rfl
  rw [State.transmit, transmitPrims, List.foldl_append, List.foldl_append, Config.frameBits, loop, lastBits_all]
  simp [State.prim, State.emit, State.sent, frameEvents]

@[simp] theorem unitsOf_nil : unitsOf [] = 0 := rfl

@[simp] theorem unitsOf_append (a b : List Event) : unitsOf (a ++ b) = unitsOf a + unitsOf b := by
  simp [unitsOf]

@[simp] theorem unitsOf_cons (e : Event) (es : List Event) : unitsOf (e :: es) = e.units + unitsOf es := by
  simp [unitsOf]

@[simp] theorem Event.units_cfg (l : Line) : (Event.cfg l).units = 0 := rfl
@[simp] theorem Event.units_set (l : Line) (b : Bool) : (Event.set l b).units = 0 := rfl
@[simp] theorem Event.units_wait (n : Nat) : (Event.wait n).units = n := rfl

@[simp] theorem bitsDown_length (w : FrameWord) : (bitsDown w).length = 16 := by simp [bitsDown]

theorem length_bitEvents (P : Params) (bits : List Bool) : (bits.flatMap (bitEvents P)).length = 5 * bits.length := by
  induction bits with
  | nil => rfl
  | cons b bits ih => simp [bitEvents, ih]; omega

theorem unitsOf_bitEvents (P : Params) (bits : List Bool) :
    unitsOf (bits.flatMap (bitEvents P)) = 2 * P.tHalf * bits.length := by
  induction bits with
  | nil => rfl
  | cons b bits ih => simp [bitEvents, ih]; ring

/-- A frame is 86 events (40_transport.md R70). -/
@[simp] theorem frameEvents_length (P : Params) (w : FrameWord) : (frameEvents P w).length = 86 := by
  rw [frameEvents, List.length_append, List.length_append, length_bitEvents, bitsDown_length]
  rfl

/-- A frame takes at least `2*T_STB + 32*T_HALF` units (40_transport.md R70). -/
@[simp] theorem unitsOf_frameEvents (P : Params) (w : FrameWord) :
    unitsOf (frameEvents P w) = 2 * P.tStb + 32 * P.tHalf := by
  simp [frameEvents, unitsOf_bitEvents]
  omega

/-- The events of bit number `k` (from 0) of a bit loop. -/
theorem getElem?_bitEvents (P : Params) (bits : List Bool) (k r : Nat) (hr : r < 5) (hk : k < bits.length) :
    (bits.flatMap (bitEvents P))[5 * k + r]? = (bitEvents P bits[k])[r]? := by
  induction bits generalizing k with
  | nil => simp at hk
  | cons b bits ih =>
    have len : (bitEvents P b).length = 5 := rfl
    rcases k with _ | k
    · simp [List.flatMap_cons, List.getElem?_append, len, hr]
    · have hlt : ¬ 5 * (k + 1) + r < 5 := by omega
      have heq : 5 * (k + 1) + r - 5 = 5 * k + r := by omega
      rw [List.flatMap_cons, List.getElem?_append, len, if_neg hlt, heq, ih k (by simpa using hk)]
      rfl

/-- The time a bit loop has taken after `k` bits and `r` events more. -/
theorem unitsOf_take_bitEvents (P : Params) (bits : List Bool) (k r : Nat) (hr : r < 5) (hk : k < bits.length) :
    unitsOf ((bits.flatMap (bitEvents P)).take (5 * k + r)) =
      k * (2 * P.tHalf) + unitsOf ((bitEvents P bits[k]).take r) := by
  induction bits generalizing k with
  | nil => simp at hk
  | cons b bits ih =>
    have len : (bitEvents P b).length = 5 := rfl
    rcases k with _ | k
    · simp [List.flatMap_cons, List.take_append, len, show r - 5 = 0 by omega]
    · have heq : 5 * (k + 1) + r - 5 = 5 * k + r := by omega
      rw [List.flatMap_cons, List.take_append, len, heq, unitsOf_append, ih k (by simpa using hk),
        List.take_of_length_le (by rw [len]; omega)]
      simp [bitEvents]
      ring

/-- A frame's events around its bit loop. -/
theorem frameEvents_bit (P : Params) (w : FrameWord) (k r : Nat) (hr : r < 5) (hk : k < 16) :
    (frameEvents P w)[3 + 5 * k + r]? = (bitEvents P (w.getLsbD (15 - k)))[r]? ∧
    timeBefore (frameEvents P w) (3 + 5 * k + r) =
      P.tStb + k * (2 * P.tHalf) + unitsOf ((bitEvents P (w.getLsbD (15 - k))).take r) := by
  have len : ((bitsDown w).flatMap (bitEvents P)).length = 80 := by rw [length_bitEvents]; simp
  have hb : (bitsDown w)[k]'(by simpa using hk) = w.getLsbD (15 - k) := by simp [bitsDown]
  have h3 : 3 + 5 * k + r - 3 = 5 * k + r := by omega
  constructor
  · rw [frameEvents, List.append_assoc, List.getElem?_append_right (by simp; omega)]
    rw [show 3 + 5 * k + r - [Event.set .stb false, .wait P.tStb, .set .sck false].length = 5 * k + r by simp; omega]
    rw [List.getElem?_append_left (by rw [len]; omega), getElem?_bitEvents P _ k r hr (by simpa using hk), hb]
  · rw [timeBefore, frameEvents, List.append_assoc, List.take_append, unitsOf_append]
    rw [show 3 + 5 * k + r - [Event.set .stb false, .wait P.tStb, .set .sck false].length = 5 * k + r by simp; omega]
    rw [List.take_append_of_le_length (by rw [len]; omega), unitsOf_take_bitEvents P _ k r hr (by simpa using hk), hb,
      List.take_of_length_le (by simp; omega)]
    simp
    omega

/-- A frame's events before its terminal clock raise, and the last three (40_transport.md R69). -/
theorem frameEvents_end (P : Params) (w : FrameWord) :
    ∃ es, frameEvents P w = es ++ [.set .sck true, .set .stb true, .wait P.tStb] ∧ es.length = 83 ∧
      unitsOf es = P.tStb + 32 * P.tHalf := by
  refine ⟨_, rfl, ?_, ?_⟩
  · rw [List.length_append, length_bitEvents, bitsDown_length]
    rfl
  · simp [unitsOf_bitEvents]
    omega

/-- Taking one more level moves the word up and puts the level at bit 0. -/
theorem getLsbD_shiftIn (v : FrameWord) (b : Bool) (j : Nat) (hj : j < 16) :
    ((v <<< 1) ||| (if b then 1 else 0)).getLsbD j = if j = 0 then b else v.getLsbD (j - 1) := by
  rcases j with _ | j
  · cases b <;> simp
  · have : j < 16 := by omega
    cases b <;> simp [hj, BitVec.getLsbD_eq_getElem, this]

/-- The first `n` levels of a frame make up its top `n` bits. -/
theorem wordOfBits_take (w : FrameWord) (n : Nat) (hn : n ≤ 16) :
    wordOfBits ((List.range n).map fun k => w.getLsbD (15 - k)) = w >>> (16 - n) := by
  induction n with
  | zero => apply BitVec.eq_of_getLsbD_eq; intro i _; simp [wordOfBits]
  | succ n ih =>
    have h := ih (by omega)
    rw [wordOfBits] at h ⊢
    rw [List.range_succ, List.map_append, List.foldl_append, h]
    apply BitVec.eq_of_getLsbD_eq
    intro i hi
    rw [List.map_singleton, List.foldl_cons, List.foldl_nil, getLsbD_shiftIn _ _ _ hi]
    split
    · next h0 => subst h0; simp
    · simp; congr 1; omega

/-- Sixteen levels make up the word they are the bits of. -/
theorem wordOfBits_bitsDown (w : FrameWord) : wordOfBits (bitsDown w) = w := by
  simpa [bitsDown] using wordOfBits_take w 16 (by omega)

/-! ## The frame list

`framesOf_append` and the lemmas about `FrameReader.read` take any trace apart event by event and frame by frame. -/

/-- Reading a trace further. -/
@[simp] theorem readFrames_append (a b : List Event) :
    readFrames (a ++ b) = b.foldl FrameReader.read (readFrames a) := by
  simp [readFrames]

@[simp] theorem readFrames_nil : readFrames [] = ⟨[], none⟩ := rfl

@[simp] theorem readFrames_frames (tr : List Event) : (readFrames tr).frames = framesOf tr := rfl

@[simp] theorem framesOf_nil : framesOf [] = [] := rfl

@[simp] theorem framesOf_append (a b : List Event) :
    framesOf (a ++ b) = (b.foldl FrameReader.read (readFrames a)).frames := by
  rw [framesOf, readFrames_append]

@[simp] theorem FrameReader.read_cfg (r : FrameReader) (l : Line) : r.read (.cfg l) = r := rfl
@[simp] theorem FrameReader.read_wait (r : FrameReader) (n : Nat) : r.read (.wait n) = r := rfl
@[simp] theorem FrameReader.read_sck (r : FrameReader) (b : Bool) : r.read (.set .sck b) = r := rfl

/-- A frame's events add that frame to the frame list, whatever stood before (40_transport.md R70). -/
@[simp] theorem read_frameEvents (P : Params) (w : FrameWord) (r : FrameReader) :
    (frameEvents P w).foldl FrameReader.read r = ⟨r.frames ++ [w], none⟩ := by
  have h := wordOfBits_bitsDown w
  simp [bitsDown, List.range_succ] at h
  simp [frameEvents, bitsDown, bitEvents, List.range_succ, FrameReader.read, h]

end Sys2Proof.Machine
end

