-- ==== Sys2Proof/Laws/Ops.lean ====
section
/-!
SUPPORT. What accepting and running an operation does, said once: the spec lemmas of Machine/Ops.lean, and the one
fact every claim about `exec` starts from, that an instruction runs the plan it is accepted with.
-/

namespace Sys2Proof.Machine

/-! ## Running the steps of an operation -/

@[simp] theorem State.run_nil (s : State) : s.run [] = s := rfl

@[simp] theorem State.run_cons (s : State) (x : SeqStep) (xs : List SeqStep) :
    s.run (x :: xs) = (s.seqStep x).run xs := rfl

theorem State.run_append (s : State) (xs ys : List SeqStep) : s.run (xs ++ ys) = (s.run xs).run ys := by
  simp [State.run]

@[simp] theorem State.seqStep_call (s : State) (c : Call) : s.seqStep (.call c) = s.sent (callWord s.cfg c) :=
  s.transmit_eq _

@[simp] theorem State.seqStep_wait (s : State) (n : Nat) : s.seqStep (.prim (.wait n)) = s.waited n := rfl

@[simp] theorem State.seqStep_cfg (s : State) (l : Line) : s.seqStep (.prim (.cfg l)) = s.emit (.cfg l) := rfl

@[simp] theorem State.seqStep_ret (s : State) (n : Nat) :
    s.seqStep (.prim (.ret n)) = { s with returned := s.returned ++ [n] } := rfl

/-! ## Accepting -/

/-- A host operation is accepted exactly as its own plan says when an instance exists and nothing runs. -/
theorem State.accept_ready {s : State} (h : s.Ready) (job : Except Refusal Job) : s.accept job = job := by
  obtain ⟨hp, hs⟩ := h
  cases hpins : s.pins with
  | none => exact absurd hpins hp
  | some p => simp [State.accept, hpins, hs]

theorem State.accept_noInstance {s : State} (h : s.pins = none) (job : Except Refusal Job) :
    s.accept job = .error .notConstructed := by
  simp [State.accept, h]

theorem State.accept_running {s : State} (hp : s.pins ≠ none) (hs : s.seq ≠ []) (job : Except Refusal Job) :
    s.accept job = .error .reentered := by
  cases hpins : s.pins with
  | none => exact absurd hpins hp
  | some p =>
    cases hseq : s.seq with
    | nil => exact absurd hseq hs
    | cons x xs => simp [State.accept, hpins, hseq]

/-- What an accepted host operation says of the state and of its plan. -/
theorem State.accept_ok {s : State} {job : Except Refusal Job} {j : Job} (h : s.accept job = .ok j) :
    s.Ready ∧ job = .ok j := by
  unfold State.accept at h
  split at h
  · cases h
  · cases h
  · next hp hs => exact ⟨⟨by simp [hp], hs⟩, h⟩

theorem State.internal_constructed {s : State} (h : s.Constructed) (c : Call) :
    s.internal c = .ok ⟨s, [.call c]⟩ := by
  cases hpins : s.pins with
  | none => exact absurd hpins h
  | some p => simp [State.internal, hpins]

theorem State.internal_noInstance {s : State} (h : s.pins = none) (c : Call) :
    s.internal c = .error .notConstructed := by
  simp [State.internal, h]

theorem State.internal_ok {s : State} {c : Call} {j : Job} (h : s.internal c = .ok j) :
    s.Constructed ∧ j = ⟨s, [.call c]⟩ := by
  unfold State.internal at h
  split at h
  · cases h
  · next hp => exact ⟨by simp [State.Constructed, hp], by cases h; rfl⟩

/-- A toggle with CTRL written. -/
theorem State.toggle_ready {s : State} (h : s.Ready) {c : Byte} (hc : s.ctrl = .val c) (f : Byte → Byte) :
    s.toggle f = .ok ⟨{ s with ctrl := .val (f c) }, [.call (.command (registerPayload s.cfg.opCtrl (f c)))]⟩ := by
  rw [State.toggle, State.accept_ready h, hc]

/-- What an accepted toggle says. -/
theorem State.toggle_ok {s : State} {f : Byte → Byte} {j : Job} (h : s.toggle f = .ok j) :
    s.Ready ∧ ∃ c, s.ctrl = .val c ∧
      j = ⟨{ s with ctrl := .val (f c) }, [.call (.command (registerPayload s.cfg.opCtrl (f c)))]⟩ := by
  obtain ⟨hr, hj⟩ := State.accept_ok h
  refine ⟨hr, ?_⟩
  cases hc : s.ctrl with
  | unwritten => rw [hc] at hj; cases hj
  | val c => rw [hc] at hj; cases hj; exact ⟨c, rfl, rfl⟩

/-! ## Completing -/

@[simp] theorem complete_ok (j : Job) : complete (.ok j) = .next (j.base.run j.steps) := rfl

@[simp] theorem complete_error (r : Refusal) : complete (.error r) = .refused r := rfl

/-- If an operation answers a next state, its plan was accepted and that state is its steps run. -/
theorem complete_next {job : Except Refusal Job} {t : State} (h : complete job = .next t) :
    ∃ j, job = .ok j ∧ t = j.base.run j.steps := by
  cases job with
  | error r => cases h
  | ok j => cases h; exact ⟨j, rfl, rfl⟩

/-- Every instruction runs the plan it is accepted with. -/
theorem exec_eq_complete (i : Instr) (s : State) : exec i s = complete (plan i s) := by
  cases i <;> rfl

/-- If an instruction answers a next state, its plan was accepted and that state is its steps run. -/
theorem exec_next {i : Instr} {s t : State} (h : exec i s = .next t) :
    ∃ j, plan i s = .ok j ∧ t = j.base.run j.steps :=
  complete_next (exec_eq_complete i s ▸ h)

/-- Running steps changes the trace, the lines, the transient registers and the returned values, and nothing else. -/
theorem State.run_frame (xs : List SeqStep) (s : State) :
    (s.run xs).cfg = s.cfg ∧ (s.run xs).pins = s.pins ∧ (s.run xs).func = s.func ∧ (s.run xs).ctrl = s.ctrl ∧
      (s.run xs).entry = s.entry ∧ (s.run xs).lines = s.lines ∧ (s.run xs).seq = s.seq ∧
      (s.run xs).program = s.program ∧ (s.run xs).stepwise = s.stepwise ∧ (s.run xs).fresh = s.fresh := by
  induction xs generalizing s with
  | nil => simp
  | cons x xs ih =>
    have one : ∀ p : Prim, (s.prim p).cfg = s.cfg ∧ (s.prim p).pins = s.pins ∧ (s.prim p).func = s.func ∧
        (s.prim p).ctrl = s.ctrl ∧ (s.prim p).entry = s.entry ∧ (s.prim p).lines = s.lines ∧
        (s.prim p).seq = s.seq ∧ (s.prim p).program = s.program ∧ (s.prim p).stepwise = s.stepwise ∧
        (s.prim p).fresh = s.fresh := by
      intro p
      cases p with
      | bit i => cases h : s.fr <;> simp [State.prim, h]
      | _ => simp [State.prim]
    cases x with
    | call c => simpa using ih (s.sent (callWord s.cfg c))
    | prim p =>
      obtain ⟨h1, h2, h3, h4, h5, h6, h7, h8, h9, h10⟩ := one p
      have h := ih (s.prim p)
      simp only [State.run_cons, State.seqStep]
      simp_all

end Sys2Proof.Machine
end

