-- ==== Sys2Proof/Laws/PerInstr.lean ====
section
/-!
SUPPORT. The per-instruction family Surface: an instruction is encoded as a request of the host exactly when it is on
the public operation surface (30_encoding.md R54, R57).
-/

namespace Sys2Proof.Laws.Surface

/-- The instruction is encoded as a request exactly when it is a host operation. -/
def Statement (i : Instr) : Prop :=
  ∀ P : Params, (∃ r, encode P i = .request r) ↔ i.isHostOp = true

theorem clearDisplay : Statement .clearDisplay := by simp [Statement, encode, Instr.isHostOp]
theorem returnHome : Statement .returnHome := by simp [Statement, encode, Instr.isHostOp]
theorem entryModeSet (x : Byte) : Statement (.entryModeSet x) := by simp [Statement, encode, Instr.isHostOp]
theorem displayControl (x : Byte) : Statement (.displayControl x) := by simp [Statement, encode, Instr.isHostOp]
theorem functionSet (x : Byte) : Statement (.functionSet x) := by simp [Statement, encode, Instr.isHostOp]
theorem setCgramAddr (x : Byte) : Statement (.setCgramAddr x) := by simp [Statement, encode, Instr.isHostOp]
theorem setDdramAddr (x : Byte) : Statement (.setDdramAddr x) := by simp [Statement, encode, Instr.isHostOp]
theorem dataWrite (x : Byte) : Statement (.dataWrite x) := by simp [Statement, encode, Instr.isHostOp]
theorem construct (x y z : LineId) : Statement (.construct x y z) := by simp [Statement, encode, Instr.isHostOp]
theorem begin (x y : Byte) : Statement (.begin x y) := by simp [Statement, encode, Instr.isHostOp]
theorem clear : Statement .clear := by simp [Statement, encode, Instr.isHostOp]
theorem home : Statement .home := by simp [Statement, encode, Instr.isHostOp]
theorem display : Statement .display := by simp [Statement, encode, Instr.isHostOp]
theorem noDisplay : Statement .noDisplay := by simp [Statement, encode, Instr.isHostOp]
theorem cursor : Statement .cursor := by simp [Statement, encode, Instr.isHostOp]
theorem noCursor : Statement .noCursor := by simp [Statement, encode, Instr.isHostOp]
theorem blink : Statement .blink := by simp [Statement, encode, Instr.isHostOp]
theorem noBlink : Statement .noBlink := by simp [Statement, encode, Instr.isHostOp]
theorem setCursor (x y : Byte) : Statement (.setCursor x y) := by simp [Statement, encode, Instr.isHostOp]
theorem setBrightness (x : Byte) : Statement (.setBrightness x) := by simp [Statement, encode, Instr.isHostOp]
theorem createChar (x : Byte) (y : List Byte) : Statement (.createChar x y) := by simp [Statement, encode, Instr.isHostOp]
theorem write (x : Byte) : Statement (.write x) := by simp [Statement, encode, Instr.isHostOp]
theorem transmit (x y : Byte) : Statement (.transmit x y) := by simp [Statement, encode, Instr.isHostOp]
theorem command (x : Byte) : Statement (.command x) := by simp [Statement, encode, Instr.isHostOp]
theorem data (x : Byte) : Statement (.data x) := by simp [Statement, encode, Instr.isHostOp]

end Sys2Proof.Laws.Surface
end

