-- ==== Sys2Proof/Tests/Slice0.lean ====
section
/-!
SUPPORT. Tests of the model against spec/30_encoding.md and spec/95_test_vectors.md (the vector's name is in each
comment), and a witness for every statement that has hypotheses.
-/

namespace Sys2Proof.Tests

open Sys2Proof.Machine

/-! ## Small states -/

/-- A new instance (vector B0) with its three unspecified levels low. -/
def fresh : State := { State.reset with lvl := ⟨false, false, false⟩ }

/-- The registers as `begin(16, 2)` leaves them (vector B1), nothing in the trace. -/
def started : State :=
  { fresh with func := 0x18, ctrl := .val 0x04, entry := .val 0x02, lines := .val 2, trace := [],
               lvl := ⟨true, true, false⟩ }

/-- No instance. -/
def bare : State := { fresh with pins := none }

/-- An operation with one wait still to make. -/
def busy : State := { fresh with seq := [.prim (.wait 5)] }

/-- The parameters with the masking alternative. -/
def masking : Params := { Params.default with brightnessMasking := true }

/-- The parameters with the other tail of `createChar`. -/
def otherTail : Params := { Params.default with createCharTail := .ddram0 }

/-- The next state, if there is one. -/
def next? (o : Host.Outcome State Fault Refusal) : Option State :=
  match o with
  | .next t => some t
  | .fault _ => none
  | .refused _ => none

/-- The refusal, if there is one. -/
def refusal? (o : Host.Outcome State Fault Refusal) : Option Refusal :=
  match o with
  | .next _ => none
  | .fault _ => none
  | .refused r => some r

/-- The frames an instruction adds from `s`. -/
def framesAfter (i : Instr) (s : State) : Option (List FrameWord) :=
  (next? (exec i s)).map fun t => framesOf t.trace

/-- The frames of the steps an instruction is accepted with, from `s`. -/
def framesPlanned (i : Instr) (s : State) : Option (List FrameWord) :=
  match plan i s with
  | .error _ => none
  | .ok j => some (j.steps.filterMap fun
    | .prim _ => none
    | .call c => some (callWord s.cfg c))

/-- The registers an instruction's first actions write, from `s`: FUNC, CTRL, ENTRY, LINES. -/
def registersPlanned (i : Instr) (s : State) : Option (Byte × Reg8 × Reg8 × Reg8) :=
  match plan i s with
  | .error _ => none
  | .ok j => some (j.base.func, j.base.ctrl, j.base.entry, j.base.lines)

/-- A glyph. -/
def arrow : List Byte := [1, 2, 3, 4, 5, 6, 7, 8]

/-! ## Well-formedness -/

theorem test_wf_entry_field : (Instr.entryModeSet 4).wf Params.default = false := by decide
theorem test_wf_control_field : (Instr.displayControl 8).wf Params.default = false := by decide
theorem test_wf_function_field : (Instr.functionSet 32).wf Params.default = false := by decide
theorem test_wf_cgram_address : (Instr.setCgramAddr 64).wf Params.default = false := by decide
theorem test_wf_ddram_address : (Instr.setDdramAddr 128).wf Params.default = false := by decide
theorem test_wf_short_glyph : (Instr.createChar 0 [1, 2, 3]).wf Params.default = false := by decide
theorem test_wf_fields_in_range :
    (Instr.entryModeSet 3).wf Params.default ∧ (Instr.displayControl 7).wf Params.default ∧
      (Instr.functionSet 31).wf Params.default ∧ (Instr.setCgramAddr 63).wf Params.default ∧
      (Instr.setDdramAddr 127).wf Params.default ∧ (Instr.createChar 255 arrow).wf Params.default := by decide

/-! ## Decoding: words from R46, R47 and R55, bit by bit -/

/-- CLEAR_DISPLAY: mode 1111 1000, payload 0000 0001. -/
theorem test_decode_clearDisplay : decodeTableWord 16 0b1111100000000001 = some .clearDisplay := by decide
/-- RETURN_HOME: payload 0000 0010. -/
theorem test_decode_returnHome : decodeTableWord 16 0b1111100000000010 = some .returnHome := by decide
/-- ENTRY_MODE_SET: payload 0000 01IS, I = 1, S = 0. -/
theorem test_decode_entryModeSet : decodeTableWord 16 0b1111100000000110 = some (.entryModeSet 0b10) := by decide
/-- DISPLAY_CONTROL: payload 0000 1DCB, D = 1, C = 0, B = 1. -/
theorem test_decode_displayControl : decodeTableWord 16 0b1111100000001101 = some (.displayControl 0b101) := by decide
/-- FUNCTION_SET: payload 001W N0RR, W = 1, N = 1, R = 10. -/
theorem test_decode_functionSet : decodeTableWord 16 0b1111100000111010 = some (.functionSet 0b11010) := by decide
/-- SET_CGRAM_ADDR: payload 01aa a000, location 1. -/
theorem test_decode_setCgramAddr : decodeTableWord 16 0b1111100001001000 = some (.setCgramAddr 8) := by decide
/-- SET_DDRAM_ADDR: payload 1aaa aaaa, address 0x45. -/
theorem test_decode_setDdramAddr : decodeTableWord 16 0b1111100011000101 = some (.setDdramAddr 0x45) := by decide
/-- DATA_WRITE: mode 1111 1010, payload 0100 0001. -/
theorem test_decode_dataWrite : decodeTableWord 16 0b1111101001000001 = some (.dataWrite 0x41) := by decide
/-- A word of neither mode is a bare transmission. -/
theorem test_decode_transmit : decodeTableWord 16 0b0001001000110100 = some (.transmit 0x12 0x34) := by decide
/-- Payloads R51 leaves over. -/
theorem test_decode_leftovers :
    decodeTableWord 16 0b1111100000010000 = some (.command 0x10) ∧
      decodeTableWord 16 0b1111100000000011 = some (.command 0x03) ∧
      decodeTableWord 16 0b1111100000000000 = some (.command 0x00) := by decide
/-- The entry points by name. -/
theorem test_decode_calls :
    decodeCall Params.default (.transmit 0xF801) = .transmit 0xF8 0x01 ∧
      decodeCall Params.default (.command 0x02) = .command 0x02 ∧
      decodeCall Params.default (.data 0x41) = .data 0x41 := by decide
/-- `construct(2, 3, 4)`: op 0000, a 2, b 3, the third identifier in the side operand. -/
theorem test_decode_construct : decodeTableWord 88 0x4000203 = some (.construct 2 3 4) := by decide
/-- `begin(16, 2)`: op 0001, a 0001 0000, b 0000 0010. -/
theorem test_decode_begin : decodeTableWord 24 0b00010001000000000010 = some (.begin 16 2) := by decide
theorem test_decode_plain_requests :
    decodeTableWord 24 0b00100000000000000000 = some .clear ∧
      decodeTableWord 24 0b00110000000000000000 = some .home ∧
      decodeTableWord 24 0b01000000000000000000 = some .display ∧
      decodeTableWord 24 0b01010000000000000000 = some .noDisplay ∧
      decodeTableWord 24 0b01100000000000000000 = some .cursor ∧
      decodeTableWord 24 0b01110000000000000000 = some .noCursor ∧
      decodeTableWord 24 0b10000000000000000000 = some .blink ∧
      decodeTableWord 24 0b10010000000000000000 = some .noBlink := by decide
/-- `setCursor(5, 1)`: op 1010. -/
theorem test_decode_setCursor : decodeTableWord 24 0b10100000010100000001 = some (.setCursor 5 1) := by decide
/-- `setBrightness(50)`: op 1011, the second operand ignored. -/
theorem test_decode_setBrightness : decodeTableWord 24 0b10110011001011111111 = some (.setBrightness 50) := by decide
/-- `createChar(9, g)`: op 1100, the glyph's first byte lowest. -/
theorem test_decode_createChar :
    decodeRequest ⟨0b11000000100100000000, 0x0807060504030201⟩ = .ok (.createChar 9 arrow) := by decide
/-- `write(0x48)`: op 1101. -/
theorem test_decode_write : decodeTableWord 24 0b11010100100000000000 = some (.write 0x48) := by decide
/-- Select codes 14 and 15 select nothing. -/
theorem test_decode_no_operation :
    decodeRequest ⟨0xE0000, 0⟩ = .error (.noSuchOperation 14) ∧
      decodeRequest ⟨0xFFFFF, 0⟩ = .error (.noSuchOperation 15) := by decide
/-- R55's worked program word `begin(16, 2)`, encoded. -/
theorem test_encode_begin : encode Params.default (.begin 16 2) = .request ⟨0x11002, 0⟩ := by decide
/-- The glyph's side operand: byte 0 in bits 7:0. -/
theorem test_encode_glyph : sideOfGlyph arrow = 0x0807060504030201#64 := by decide

/-! ## One instruction, one state -/

/-- T1: `command(0x01)` sends F801. -/
theorem test_command : framesAfter (.command 0x01) fresh = some [0xF801] := by decide +kernel
/-- T3: `data(0x41)` sends FA41, and the data line rests at its bit 0. -/
theorem test_data : framesAfter (.data 0x41) fresh = some [0xFA41] ∧
    (next? (exec (.data 0x41) fresh)).map (·.lvl) = some ⟨true, true, true⟩ := by decide +kernel
/-- T1's seventeen samples, from levels all high. -/
theorem test_samples :
    (next? (exec (.transmit 0xF8 0x01) started)).map (fun t => samplesOf ⟨true, true, true⟩ t.trace) =
      some [true, true, true, true, true, false, false, false, false, false, false, false, false, false, false,
        true, true] := by decide +kernel
/-- T12 and T13: 86 events, 66 units; event 6 at time 3 and event 81 at time 63, numbering from 1. -/
theorem test_frame_times :
    (next? (exec (.transmit 0xF8 0x01) started)).map
      (fun t => (t.trace.length, unitsOf t.trace, timeBefore t.trace 5, timeBefore t.trace 80)) =
      some (86, 66, 3, 63) := by decide +kernel
/-- The frame rows under the default parameters (R47). -/
theorem test_frame_rows :
    framesAfter .clearDisplay fresh = some [0xF801] ∧ framesAfter .returnHome fresh = some [0xF802] ∧
      framesAfter (.entryModeSet 2) fresh = some [0xF806] ∧ framesAfter (.displayControl 7) fresh = some [0xF80F] :=
  by decide +kernel
theorem test_frame_rows_addresses :
    framesAfter (.functionSet 0x1B) fresh = some [0xF83B] ∧ framesAfter (.setCgramAddr 8) fresh = some [0xF848] ∧
      framesAfter (.setDdramAddr 0x45) fresh = some [0xF8C5] ∧ framesAfter (.dataWrite 0xFF) fresh = some [0xFAFF] :=
  by decide +kernel
/-- B0: three events, the registers unwritten. -/
theorem test_construct :
    (next? (exec (.construct 2 3 4) bare)).map
      (fun t => (t.func, t.ctrl, t.entry, t.lines, t.trace)) =
      some (0x10, .unwritten, .unwritten, .unwritten, [.cfg .sck, .cfg .stb, .cfg .sda]) := by decide +kernel
/-- B7. -/
theorem test_construct_equal_pins : refusal? (exec (.construct 2 2 4) bare) = some .pinsNotDistinct := by decide
/-- B1: frames F801 F80C F806 F838, registers 18/04/02/2. -/
theorem test_begin_two_rows :
    framesPlanned (.begin 16 2) fresh = some [0xF801, 0xF80C, 0xF806, 0xF838] ∧
      registersPlanned (.begin 16 2) fresh = some (0x18, .val 0x04, .val 0x02, .val 2) := by decide
/-- B2: one row leaves the two-line flag clear; 349 events and 65,764 units. -/
theorem test_begin_one_row :
    framesPlanned (.begin 16 1) fresh = some [0xF801, 0xF80C, 0xF806, 0xF830] ∧
      registersPlanned (.begin 16 1) fresh = some (0x10, .val 0x04, .val 0x02, .val 1) ∧
      (plan (.begin 16 1) fresh).toOption.map (fun j => ((jobEvents j).length, unitsOf (jobEvents j))) =
        some (349, 65764) := by decide +kernel
/-- The table of toggles, from CTRL = 0x04. -/
theorem test_toggles :
    framesAfter .display started = some [0xF80C] ∧ framesAfter .noDisplay started = some [0xF808] ∧
      framesAfter .cursor started = some [0xF80E] ∧ framesAfter .noCursor started = some [0xF80C] ∧
      framesAfter .blink started = some [0xF80D] ∧ framesAfter .noBlink started = some [0xF80C] := by decide +kernel
/-- The table of toggles, from CTRL = 0x07. -/
theorem test_toggles_clear :
    let s : State := { started with ctrl := .val 0x07 }
    (next? (exec .noDisplay s)).map (·.ctrl) = some (.val 0x03) ∧
      (next? (exec .noCursor s)).map (·.ctrl) = some (.val 0x05) ∧
      (next? (exec .noBlink s)).map (·.ctrl) = some (.val 0x06) := by decide +kernel
/-- G1: a toggle before `begin`. -/
theorem test_toggle_before_begin : refusal? (exec .display fresh) = some .ctrlUnwritten := by decide
/-- S8: `clear` sends F801 and waits 2,000 units; 87 events. -/
theorem test_clear :
    (next? (exec .clear started)).map (fun t => (framesOf t.trace, t.trace.length, t.trace.getLast?)) =
      some ([0xF801], 87, some (.wait 2000)) := by decide +kernel
/-- S8: `home` sends F802; 86 events. -/
theorem test_home :
    (next? (exec .home started)).map (fun t => (framesOf t.trace, t.trace.length)) = some ([0xF802], 86) :=
  by decide +kernel
/-- S5: `setCursor(5, 1)` and `setCursor(5, 0)`. -/
theorem test_setCursor :
    framesAfter (.setCursor 5 1) started = some [0xF8C5] ∧ framesAfter (.setCursor 5 0) started = some [0xF885] :=
  by decide +kernel
/-- 49_laws_and_control.md's example: `setCursor(0xC0, 1)` truncates to F880. -/
theorem test_setCursor_truncates : framesAfter (.setCursor 0xC0 1) started = some [0xF880] := by decide +kernel
/-- R102's example: FUNC = 0x18, `setBrightness(60)` leaves it and sends F838. -/
theorem test_setBrightness_unrecognised : framesAfter (.setBrightness 60) started = some [0xF838] := by decide +kernel
/-- S10: 75 then 50 without masking gives the composite field 11; with masking the field 10. -/
theorem test_setBrightness_composite :
    (next? (exec (.setBrightness 50) { started with func := 0x19 })).map (·.func) = some 0x1B ∧
      (next? (exec (.setBrightness 50) { started with func := 0x19, cfg := masking })).map (·.func) = some 0x1A := by
  decide +kernel
/-- S6: `createChar(9, g)` begins with F848 and ends with F802, the rows in order between. -/
theorem test_createChar :
    framesPlanned (.createChar 9 arrow) started =
      some [0xF848, 0xFA01, 0xFA02, 0xFA03, 0xFA04, 0xFA05, 0xFA06, 0xFA07, 0xFA08, 0xF802] := by decide
/-- The other tail: the last frame is F880. -/
theorem test_createChar_tail :
    (framesPlanned (.createChar 0 arrow) { started with cfg := otherTail }).bind (·.getLast?) = some 0xF880 := by
  decide
/-- S11: `write(0x41)` sends FA41 and returns 1. -/
theorem test_write :
    (next? (exec (.write 0x41) started)).map (fun t => (framesOf t.trace, t.returned)) = some ([0xFA41], [1]) :=
  by decide +kernel

/-- The store view (R31, U15): after 0x45 and FA41 the counter is one place on, and after a leftover payload, a foreign
mode byte or CLEAR_DISPLAY it is unknown. -/
theorem test_stores :
    storesOf Params.default [0xF8C5, 0xFA41, 0xF806, 0xFA42] = [⟨.at .ddram 0x45, 0, 0x41⟩, ⟨.at .ddram 0x45, 1, 0x42⟩] ∧
      [0xF810, 0xF803, 0xF800, 0x1234, 0xF801].map (fun w => storesOf Params.default [0xF8C5, w, 0xFA41]) =
        List.replicate 5 [⟨.unknown, 0, 0x41⟩] := by decide

/-! ## One step -/

/-- A table word placed for the step runs. -/
theorem test_step_frame :
    (next? (step (fresh.withFetchWord 16 0xF801))).map (fun t => (framesOf t.trace, t.seq)) = some ([0xF801], []) :=
  by decide +kernel
theorem test_step_request :
    (next? (step (fresh.withFetchWord 24 0x20000))).map (fun t => (framesOf t.trace, t.program)) =
      some ([0xF801], []) := by decide +kernel
theorem test_step_no_operation :
    refusal? (step (fresh.withFetchWord 24 0xE0000)) = some (.noSuchOperation 14) := by decide
/-- P5, steps 2 and 3: `cursor()` before `begin` is refused, and the host, going on with its next request from the same
state, has `setBrightness(25)` send F833 (log 24). -/
theorem test_step_after_refusal :
    refusal? (step { fresh with program := [⟨0x60000, 0⟩, ⟨0xB1900, 0⟩] }) = some .ctrlUnwritten ∧
      (next? (step { fresh with program := [⟨0xB1900, 0⟩] })).map (fun t => (framesOf t.trace, t.func)) =
        some ([0xF833], 0x13) := by decide +kernel
/-- A single action of a running operation. -/
theorem test_step_action : (next? (step busy)).map (fun t => (t.trace.getLast?, t.seq)) = some (some (.wait 5), []) :=
  by decide +kernel

/-! ## Witnesses: a state and operands that meet the hypotheses of each statement -/

theorem masking_valid : masking.Valid := by
  constructor <;> first | decide | exact ⟨4, by decide⟩

theorem otherTail_valid : otherTail.Valid := by
  constructor <;> first | decide | exact ⟨4, by decide⟩

/-- `started` under parameters shown valid, without masking. -/
def sound : State := { started with cfg := otherTail }

/-- `started` under parameters shown valid, with masking. -/
def masked : State := { started with cfg := masking }

/-- An instruction completes from a state where its plan is accepted. -/
theorem completes {i : Instr} {s : State} {j : Job} (h : plan i s = .ok j) : ∃ t, exec i s = .next t :=
  ⟨_, by rw [exec_eq_complete, h]; rfl⟩

/-- A `write` completes after any accepted operation whose base is ready. -/
theorem write_follows {i : Instr} {s : State} {j : Job} (h : plan i s = .ok j) (hr : j.base.Ready) (v : Byte) :
    ∃ t u, exec i s = .next t ∧ exec (.write v) t = .next u := by
  obtain ⟨_, hp, _, _, _, _, hs, _⟩ := State.run_frame j.steps j.base
  have hw : plan (.write v) (j.base.run j.steps) = .ok _ := State.accept_ready ⟨hp ▸ hr.1, hs ▸ hr.2⟩ _
  obtain ⟨u, hu⟩ := completes hw
  exact ⟨j.base.run j.steps, u, by rw [exec_eq_complete, h]; rfl, hu⟩

/-- The states of the witnesses from which host operations run. -/
theorem ready_witness : fresh.Ready ∧ started.Ready ∧ sound.Ready ∧ masked.Ready := by
  unfold State.Ready; decide

/-- FrameRowsSendTheirFrame, InternalPrimitivesSendTheirFrame, TransmitAlwaysSucceeds: also with the sequencer
running. -/
theorem witness_instance : fresh.pins ≠ none ∧ busy.pins ≠ none := by decide

/-- FrameEventCounts, FrameTimes, SamplesOfAFrame, StrobeAndDataDiscipline, FrameListGrowsByTheFrame, and
TimeBetweenFrames, whose second frame starts where the first ends. -/
theorem witness_transmit :
    ∃ t u, exec (.transmit 0xF8 0x01) started = .next t ∧ exec (.transmit 0xFA 0xFF) t = .next u :=
  ⟨_, _, rfl, rfl⟩

/-- StrobeAndDataDiscipline and FrameTimes at the boundaries of their ranges: the strobe after 1, 84, 85 and 86
events; the first and the last bit. -/
theorem witness_frame_boundaries :
    let es := frameEvents Params.default 0xF801
    let low (n : Nat) : Bool := ((es.take n).foldl Levels.after ⟨true, true, true⟩).stb
    low 1 = false ∧ low 84 = false ∧ low 85 = true ∧ low 86 = true ∧ es[3]? = some (.set .sda true) ∧
      es[78]? = some (.set .sda true) ∧ es[82]? = some (.set .sck false) := by decide +kernel

/-- LevelsAndTransientsAreNeverRead changes something: two states that differ there. -/
theorem witness_levels : ({ started with lvl := ⟨false, true, true⟩, fr := some 1 } : State) ≠ started := by decide

/-- ConstructMakesANewInstance, with and without an old instance. -/
theorem witness_construct :
    bare.seq = [] ∧ started.seq = [] ∧ (2 : LineId) ≠ 3 ∧ (2 : LineId) ≠ 4 ∧ (3 : LineId) ≠ 4 := by decide

/-- ConstructRefusesEqualPins: each of the three pairs alone. -/
theorem witness_equal_pins :
    started.seq = [] ∧ refusal? (exec (.construct 2 2 4) started) = some .pinsNotDistinct ∧
      refusal? (exec (.construct 2 4 2) started) = some .pinsNotDistinct ∧
      refusal? (exec (.construct 4 2 2) started) = some .pinsNotDistinct := by decide

/-- ConstructForgetsTheOldInstance: a new instance and one after `begin`. -/
theorem witness_forgets :
    fresh.seq = [] ∧ started.seq = [] ∧ fresh.cfg = started.cfg ∧ fresh.program = started.program ∧
      fresh.stepwise = started.stepwise ∧ fresh.fresh = started.fresh ∧ fresh ≠ started := by decide

/-- BeginRunsTheBringUp, BeginIgnoresColumns: 0, 1 and 2 rows. -/
theorem witness_begin :
    fresh.pins ≠ none ∧ fresh.seq = [] ∧
      (registersPlanned (.begin 16 0) fresh).map (·.1) = some 0x10 ∧
      (registersPlanned (.begin 16 1) fresh).map (·.1) = some 0x10 ∧
      (registersPlanned (.begin 16 2) fresh).map (·.1) = some 0x18 := by decide

/-- SecondBeginKeepsTheTwoLineFlag: two rows first, then one (B5). -/
theorem witness_second_begin : ∃ t u, exec (.begin 16 2) fresh = .next t ∧ exec (.begin 16 1) t = .next u :=
  ⟨_, _, rfl, rfl⟩

/-- SecondBeginKeepsTheTwoLineFlag, the flag never asked for: one row twice. -/
theorem witness_second_begin_one_row :
    ∃ t u, exec (.begin 16 1) fresh = .next t ∧ exec (.begin 16 1) t = .next u :=
  ⟨_, _, rfl, rfl⟩

/-- TogglesChangeTheirBitAndSendTheRegister. -/
theorem witness_toggle : started.pins ≠ none ∧ started.seq = [] ∧ started.ctrl = .val 0x04 := by decide

/-- TogglesRefusedBeforeBegin: the first and the last of the six. -/
theorem witness_toggle_refused :
    fresh.pins ≠ none ∧ fresh.seq = [] ∧ fresh.ctrl = .unwritten ∧
      Instr.display ∈ [Instr.display, .noDisplay, .cursor, .noCursor, .blink, .noBlink] ∧
      Instr.noBlink ∈ [Instr.display, .noDisplay, .cursor, .noCursor, .blink, .noBlink] := by decide

/-- TogglesAreIndependent. -/
theorem witness_independent :
    sound.cfg.Valid ∧ sound.pins ≠ none ∧ sound.seq = [] ∧ sound.ctrl = .val 0x04 :=
  ⟨otherTail_valid, by decide, by decide, by decide⟩

/-- ClearSendsAndWaits: before `begin` and after; under the default parameters; twice. -/
theorem witness_clear :
    fresh.pins ≠ none ∧ fresh.seq = [] ∧ fresh.cfg = Params.default ∧
      ∃ t u, exec .clear fresh = .next t ∧ exec .clear t = .next u :=
  ⟨by decide, by decide, by decide, _, _, rfl, rfl⟩

/-- HomeSendsOneFrame. -/
theorem witness_home : fresh.pins ≠ none ∧ fresh.seq = [] ∧ fresh.cfg = Params.default ∧ ∃ t, exec .home fresh = .next t :=
  ⟨by decide, by decide, by decide, _, rfl⟩

/-- SetCursorSendsTheAddress and SetCursorAddressIsModulo128: rows 0, 1 and 255, and sums at 0x7F, 0x80 and 0x13F. -/
theorem witness_setCursor :
    sound.cfg.Valid ∧ sound.pins ≠ none ∧ sound.seq = [] ∧
      framesPlanned (.setCursor 0x7F 0) sound = some [0xF8FF] ∧
      framesPlanned (.setCursor 0x40 1) sound = some [0xF880] ∧
      framesPlanned (.setCursor 0xFF 255) sound = some [0xF8BF] :=
  ⟨otherTail_valid, by decide, by decide, by decide, by decide, by decide⟩

/-- SetBrightnessSendsTheRegister: each of the four levels, and their neighbours, from FUNC = 0x18. -/
theorem witness_setBrightness :
    started.pins ≠ none ∧ started.seq = [] ∧
      [100, 75, 50, 25].map (fun l => framesPlanned (.setBrightness l) started) =
        [some [0xF838], some [0xF839], some [0xF83A], some [0xF83B]] ∧
      [99, 101, 0, 255].map (fun l => framesPlanned (.setBrightness l) started) =
        [some [0xF838], some [0xF838], some [0xF838], some [0xF838]] := by decide

/-- UnrecognisedLevelOnlyRetransmits. -/
theorem witness_unrecognised :
    started.pins ≠ none ∧ started.seq = [] ∧ (99 : Byte).toNat ∉ [100, 75, 50, 25] ∧
      (0 : Byte).toNat ∉ [100, 75, 50, 25] ∧ (255 : Byte).toNat ∉ [100, 75, 50, 25] ∧
      started.cfg = Params.default ∧ started.func = 0x18 ∧ ∃ t, exec (.setBrightness 60) started = .next t :=
  ⟨by decide, by decide, by decide, by decide, by decide, by decide, by decide, _, rfl⟩

/-- BrightnessAccumulates: 75 and 50 in either order. -/
theorem witness_accumulates :
    sound.cfg.Valid ∧ sound.cfg.brightnessMasking = false ∧
      (∃ t u, exec (.setBrightness 75) sound = .next t ∧ exec (.setBrightness 50) t = .next u) ∧
      (∃ t u, exec (.setBrightness 50) sound = .next t ∧ exec (.setBrightness 75) t = .next u) :=
  ⟨otherTail_valid, rfl, ⟨_, _, rfl, rfl⟩, ⟨_, _, rfl, rfl⟩⟩

/-- MaskedBrightnessIsTheLastLevel. -/
theorem witness_masked :
    masked.cfg.Valid ∧ masked.cfg.brightnessMasking = true ∧ brightnessCode masked.cfg 50 = some 2 ∧
      ∃ t, exec (.setBrightness 50) masked = .next t :=
  ⟨masking_valid, rfl, by decide, _, rfl⟩

/-- FunctionRegisterIsMonotone, for the two operations that write FUNC. -/
theorem witness_monotone :
    sound.cfg.brightnessMasking = false ∧ (∀ a b c, Instr.begin 16 2 ≠ .construct a b c) ∧
      (∃ t, exec (.begin 16 2) sound = .next t) ∧ ∃ t, exec (.setBrightness 25) sound = .next t :=
  ⟨rfl, (by intro a b c h; cases h), ⟨_, rfl⟩, _, rfl⟩

/-- CreateCharSendsTenFrames, GlyphLocationWraps: every location's first frame at the ends of its range. -/
theorem witness_createChar :
    started.pins ≠ none ∧ started.seq = [] ∧ arrow.length = 8 ∧ started.cfg.locMask = 7 ∧
      started.cfg = Params.default ∧
      [0, 7, 8, 9, 255].map (fun l => (framesPlanned (.createChar l arrow) started).bind (·.head?)) =
        [some 0xF840, some 0xF878, some 0xF840, some 0xF848, some 0xF878] := by decide

/-- GlyphLocationWraps, the first frame: an execution. -/
theorem witness_createChar_next : ∃ t, exec (.createChar 9 arrow) started = .next t := completes (j := _) rfl

/-- GlyphLengthRefused: no byte, seven, nine. -/
theorem witness_glyph_length :
    started.pins ≠ none ∧ started.seq = [] ∧ ([] : List Byte).length ≠ 8 ∧ (arrow.drop 1).length ≠ 8 ∧
      (arrow ++ [9]).length ≠ 8 := by decide

/-- WriteSendsTheByteAndReturnsOne, WriteStoresAtTheCursor: row 0 and row 1. -/
theorem witness_write :
    sound.cfg.Valid ∧ sound.pins ≠ none ∧ sound.seq = [] ∧
      (∃ t u, exec (.setCursor 5 1) sound = .next t ∧ exec (.write 0x41) t = .next u) ∧
      ∃ t u, exec (.setCursor 0xFF 0) sound = .next t ∧ exec (.write 0) t = .next u :=
  ⟨otherTail_valid, by decide, by decide, ⟨_, _, rfl, rfl⟩, _, _, rfl, rfl⟩

/-- GlyphRowsStoreInOrder under either tail. -/
theorem witness_glyph_rows :
    (sound.cfg.Valid ∧ sound.cfg.createCharTail = .ddram0 ∧
      ∃ t u, exec (.createChar 9 arrow) sound = .next t ∧ exec (.write 0x41) t = .next u) ∧
    (masked.cfg.Valid ∧ masked.cfg.createCharTail = .home ∧
      ∃ t u, exec (.createChar 9 arrow) masked = .next t ∧ exec (.write 0x41) t = .next u) :=
  ⟨⟨otherTail_valid, rfl, write_follows (j := ⟨sound, _⟩) rfl ready_witness.2.2.1 _⟩,
    masking_valid, rfl, write_follows (j := ⟨masked, _⟩) rfl ready_witness.2.2.2 _⟩

/-- NothingRunsWithoutAnInstance: a host operation and a frame. -/
theorem witness_no_instance :
    bare.pins = none ∧ (∀ a b c, Instr.clear ≠ .construct a b c) ∧ (∀ a b c, Instr.dataWrite 0 ≠ .construct a b c) :=
  ⟨by decide, (by intro a b c h; cases h), (by intro a b c h; cases h)⟩

/-- HostOperationsDoNotReenter: `construct` among them. -/
theorem witness_reentered :
    Instr.clear.isHostOp = true ∧ (Instr.construct 2 3 4).isHostOp = true ∧ busy.pins ≠ none ∧ busy.seq ≠ [] := by
  decide

/-- NoOtherRequestIsRefused: each of its three conditions both met and failed. -/
theorem witness_no_other_refusal :
    started.pins ≠ none ∧ started.seq = [] ∧ started.ctrl ≠ .unwritten ∧ fresh.ctrl = .unwritten ∧
      refusal? (exec .cursor fresh) = some .ctrlUnwritten ∧
      refusal? (exec (.construct 3 3 4) fresh) = some .pinsNotDistinct ∧
      refusal? (exec (.createChar 0 []) fresh) = some .glyphLength := by decide

/-- DecodeInvertsEncode, DecodingKeepsEveryFrameBit: the largest fields. -/
theorem witness_encode :
    otherTail.Valid ∧ (Instr.entryModeSet 3).wf otherTail = true ∧ (Instr.functionSet 31).wf otherTail = true ∧
      (Instr.setDdramAddr 127).wf otherTail = true ∧ (Instr.createChar 255 arrow).wf otherTail = true ∧
      (Instr.construct 255 0 1).wf otherTail = true ∧ (Instr.data 255).wf otherTail = true :=
  ⟨otherTail_valid, by decide, by decide, by decide, by decide, by decide, by decide⟩

/-- CommandPayloadRanges: the ends of each range (R47). -/
theorem witness_payload_ranges :
    [0x00, 0x01, 0x02, 0x03, 0x04, 0x07, 0x08, 0x0F].map (fun v => decodeFrame Params.default (frameWord 0xF8 v)) =
      [.command 0, .clearDisplay, .returnHome, .command 3, .entryModeSet 0, .entryModeSet 3, .displayControl 0,
        .displayControl 7] ∧
    [0x10, 0x1F, 0x20, 0x3F, 0x40, 0x7F, 0x80, 0xFF].map (fun v => decodeFrame Params.default (frameWord 0xF8 v)) =
      [.command 0x10, .command 0x1F, .functionSet 0, .functionSet 31, .setCgramAddr 0, .setCgramAddr 63,
        .setDdramAddr 0, .setDdramAddr 127] := by decide

/-- RequestsSelectHostOperations: select codes 13, 14 and 15. -/
theorem witness_requests :
    decodeRequest ⟨0xD4800, 0⟩ = .ok (.write 0x48) ∧ 14 ≤ (Request.mk 0xE0000 0).op.toNat ∧
      14 ≤ (Request.mk 0xF0000 0).op.toNat := by decide

/-- StepRunsTheDecodedInstruction: its five kinds of state. -/
theorem witness_step :
    (fresh.withFetchWord 24 0x20000).seq = [] ∧ (fresh.withFetchWord 24 0x20000).stepwise = false ∧
      (fresh.withFetchWord 24 0x20000).program = [⟨0x20000, 0⟩] ∧ decodeRequest ⟨0x20000, 0⟩ = .ok .clear ∧
      (fresh.withFetchWord 16 0xF801).seq = [.call (.frame 0xF801)] ∧ busy.seq = [.prim (.wait 5)] ∧
      (fresh.withFetchWord 24 0xE0000).program = [⟨0xE0000, 0⟩] ∧ 14 ≤ (Request.mk 0xE0000 0).op.toNat ∧
      fresh.seq = [] ∧ fresh.program = [] := by decide

/-- StepwiseRunEqualsWholeOperation: `clear` to run step by step. -/
theorem witness_stepwise :
    let s : State := { fresh with stepwise := true, program := [⟨0x20000, 0⟩] }
    s.seq = [] ∧ s.stepwise = true ∧ s.program = ⟨0x20000, 0⟩ :: [] ∧ decodeRequest ⟨0x20000, 0⟩ = .ok .clear ∧
      ∃ t, exec .clear { s with program := [] } = .next t :=
  ⟨by decide, by decide, by decide, by decide, _, rfl⟩

/-- OperationLengthsAreFixed, RegistersHaveOnlyTheirWriters: one instruction for each of their clauses. -/
theorem witness_all_clauses :
    (∃ t, exec (.construct 2 3 4) started = .next t) ∧ (∃ t, exec (.begin 16 2) started = .next t) ∧
      (∃ t, exec .clear started = .next t) ∧ (∃ t, exec (.createChar 0 arrow) started = .next t) ∧
      (∃ t, exec .cursor started = .next t) ∧ (∃ t, exec (.setBrightness 25) started = .next t) ∧
      (∃ t, exec (.write 0) started = .next t) ∧ ∃ t, exec (.setCgramAddr 8) started = .next t :=
  ⟨completes (j := _) rfl, completes (j := _) rfl, completes (j := _) rfl, completes (j := _) rfl,
    completes (j := _) rfl, completes (j := _) rfl, completes (j := _) rfl, completes (j := _) rfl⟩

/-- The state after `begin(16, 2)`, its waits left out of the trace, with a `write` to issue. -/
def running : State :=
  { fresh with
    cfg := otherTail, func := 0x18, ctrl := .val 0x04, entry := .val 0x02, lines := .val 2
    lvl := ⟨true, true, false⟩
    trace := frameEvents otherTail 0xF801 ++ frameEvents otherTail 0xF80C ++ frameEvents otherTail 0xF806 ++
      frameEvents otherTail 0xF838
    program := [⟨0xD4800, 0⟩] }

theorem running_frames : framesOf running.trace = [0xF801, 0xF80C, 0xF806, 0xF838] := by
  simp [running, framesOf, readFrames]

/-- StepKeepsTheInvariant: a state after `begin`, and the step it makes. -/
theorem witness_invariant : running.Inv ∧ ∃ t, step running = .next t := by
  refine ⟨⟨otherTail_valid, ⟨rfl, rfl, rfl, rfl, ?_⟩, ⟨by decide, ?_, ?_, by decide, by decide⟩, ?_, ?_, ?_⟩, _, rfl⟩
  · simp [running]
  · rintro v h; cases h; rfl
  · rintro v h; cases h; decide
  · intro w h
    rw [running_frames] at h
    cases h
    decide
  · intro w h
    rw [running_frames] at h
    simp only [List.mem_cons, List.not_mem_nil, or_false] at h
    rcases h with rfl | rfl | rfl | rfl
    · exact .clearDisplay
    · exact .displayControl 0x04 (by decide)
    · exact .entryModeSet
    · exact .functionSet 0x18 (by decide) (by decide)
  · rintro c e h h'
    cases h
    cases h'
    rw [running_frames]
    decide

end Sys2Proof.Tests
end

section
/-!
PROOFS. The Transport (40_transport.md): the composition of the frame register (R64), and the freedom of `transmit`
from failure, from the line levels and from the value of the frame (R72).
-/

namespace Sys2Proof

/-- A frame is its mode followed by its payload (30_encoding.md R44). -/
theorem frameWord_eq_append (m p : Byte) : frameWord m p = m ++ p := by
  apply BitVec.eq_of_getLsbD_eq
  intro i hi
  rw [getLsbD_frameWord m p i hi, BitVec.getLsbD_append]

/-- No bit is lost: as a number a frame is its two bytes in base 256 (40_transport.md R64). -/
theorem toNat_frameWord (m p : Byte) : (frameWord m p).toNat = 256 * m.toNat + p.toNat := by
  rw [frameWord_eq_append, BitVec.toNat_append, ← Nat.shiftLeft_add_eq_or_of_lt p.isLt, Nat.shiftLeft_eq, mul_comm]

end Sys2Proof

namespace Sys2Proof.Machine

/-! ## The frame register -/

/-- The first action of `transmit` is the load of FR (40_transport.md R64). -/
theorem take_one_transmitPrims (P : Params) (w : FrameWord) : (transmitPrims P w).take 1 = [.load w] := rfl

@[simp] theorem State.prim_load_fr (s : State) (w : FrameWord) : (s.prim (.load w)).fr = some w := rfl

/-- Settles O1: the word loaded is `frameWord`, whose fields and value the frame lemmas give. -/
theorem frameRegisterHoldsModeAbovePayload : Obligations.FrameRegisterHoldsModeAbovePayload := by
  unfold Obligations.FrameRegisterHoldsModeAbovePayload
  refine ⟨fun s m p => ⟨frameWord m p, ?_, rfl, ?_, ?_, ?_⟩, by decide⟩
  · simp [take_one_transmitPrims]
  · exact frameMode_frameWord m p
  · exact framePayload_frameWord m p
  · exact toNat_frameWord m p

/-! ## A transmission is never refused and never reads a line -/

/-- Once constructed, `transmit` completes and leaves the state with its frame sent (40_transport.md R70, R72). -/
theorem exec_transmit {s : State} (h : s.Constructed) (m p : Byte) :
    exec (.transmit m p) s = .next (s.sent (frameWord m p)) := by
  rw [exec_eq_complete, plan, planTransmit, State.internal_constructed h]
  simp [callWord]

/-- The state a frame leaves does not depend on the line levels it found (40_transport.md R72). -/
@[simp] theorem State.sent_withLevels (s : State) (lv : Levels) (w : FrameWord) :
    ({ s with lvl := lv } : State).sent w = s.sent w := rfl

/-! ## All frames are sent alike -/

/-- An event with its data level forgotten: both levels of the data line are read as low. -/
def Event.maskData (e : Event) : Event := if e = .set .sda true then .set .sda false else e

/-- The events of a bit differ from those of a low bit in the data level alone (40_transport.md R67, R68). -/
theorem maskData_bitEvents (P : Params) (b : Bool) : (bitEvents P b).map Event.maskData = bitEvents P false := by
  cases b <;> simp [bitEvents, Event.maskData]

/-- A bit loop with its data levels forgotten is known by its number of bits. -/
theorem maskData_flatMap_bitEvents (P : Params) (bits : List Bool) :
    (bits.flatMap (bitEvents P)).map Event.maskData = (List.replicate bits.length (bitEvents P false)).flatten := by
  induction bits with
  | nil => rfl
  | cons b bits ih =>
    rw [List.flatMap_cons, List.map_append, maskData_bitEvents, ih, List.length_cons, List.replicate_succ,
      List.flatten_cons]

/-- Any two frames have the same events once the data levels are forgotten (40_transport.md R72). -/
theorem maskData_frameEvents (P : Params) (w w' : FrameWord) :
    (frameEvents P w).map Event.maskData = (frameEvents P w').map Event.maskData := by
  simp only [frameEvents, List.map_append, maskData_flatMap_bitEvents, bitsDown_length]

/-- Settles O5: the state reached is the one with the frame sent, which neither the levels nor the returned values
enter, and whose new events are those of any other frame but for the data levels. -/
theorem transmitAlwaysSucceeds : Obligations.TransmitAlwaysSucceeds := by
  unfold Obligations.TransmitAlwaysSucceeds
  intro s hs m p
  refine ⟨s.sent (frameWord m p), exec_transmit hs m p, rfl, fun lv => ?_, fun m' p' t' h => ?_⟩
  · have sends := exec_transmit (s := { s with lvl := lv }) hs m p
    rwa [State.sent_withLevels] at sends
  · rw [exec_transmit hs m' p'] at h
    cases h
    have alike : (s.sent (frameWord m' p')).trace.map Event.maskData =
        (s.sent (frameWord m p)).trace.map Event.maskData := by
      rw [State.sent_trace, State.sent_trace, List.map_append, List.map_append, maskData_frameEvents]
    exact alike

end Sys2Proof.Machine
end

section
/-!
PROOFS. Initialisation (42_init.md): the columns operand of `begin` is accepted and used by nothing (R89).
-/

namespace Sys2Proof

/-- Select code 1 is `begin` with the word's two operand bytes, whatever the side operand (30_encoding.md R55). -/
@[simp] theorem decodeRequest_requestWord_begin (cols rows : Byte) (g : BitVec 64) :
    decodeRequest ⟨requestWord 1 cols rows, g⟩ = .ok (.begin cols rows) := by
  simp [decodeRequest]

end Sys2Proof

namespace Sys2Proof.Machine

/-- An idle block issues the host's next request once it is decoded. -/
theorem step_request {s : State} {r : Request} {i : Instr} (hseq : s.seq = []) (decoded : decodeRequest r = .ok i)
    (rs : List Request) : step { s with program := r :: rs } = issue i { s with program := rs } := by
  simp [step, hseq, decoded]

/-! ## The columns are in no plan, so in no outcome -/

/-- The registers `begin` writes and its steps are of its rows alone (42_init.md R86, R89). -/
theorem plan_begin_cols (cols cols' rows : Byte) (s : State) :
    plan (.begin cols rows) s = plan (.begin cols' rows) s := rfl

/-- Instructions with one plan are issued to one outcome, whole or stepwise (10_state.md R17). -/
theorem issue_congr_plan {i j : Instr} {s : State} (same : plan i s = plan j s) : issue i s = issue j s := by
  simp only [issue, launch, exec_eq_complete, same]

/-- Settles O19: the plan holds no columns, and the outcome of `exec` and of the step is that of the plan. -/
theorem beginIgnoresColumns : Obligations.BeginIgnoresColumns := by
  unfold Obligations.BeginIgnoresColumns
  refine ⟨fun s cols cols' rows => ?_, fun s cols cols' rows g g' rs hseq => ?_⟩
  · rw [exec_eq_complete, exec_eq_complete, plan_begin_cols]
  · rw [step_request hseq (decodeRequest_requestWord_begin cols rows g),
      step_request hseq (decodeRequest_requestWord_begin cols' rows g')]
    exact issue_congr_plan (plan_begin_cols cols cols' rows _)

end Sys2Proof.Machine
end

section
/-!
PROOFS. Brightness (45_brightness.md): a level that is none of the four changes no bit of FUNC, and FUNCTION_SET is
sent all the same (R102).
-/

namespace Sys2Proof.Machine

/-- A frame sent is the last of the frame list, whatever stood before (40_transport.md R70). -/
theorem State.framesOf_sent (s : State) (w : FrameWord) :
    framesOf (s.sent w).trace = framesOf s.trace ++ [w] := by
  rw [State.sent_trace, framesOf_append, read_frameEvents, readFrames_frames]

/-! ## `setBrightness` at any level -/

/-- What `setBrightness` answers when it may be issued: FUNC with the level in it, sent whole (45_brightness.md
R101). -/
theorem exec_setBrightness {s : State} (h : s.Ready) (level : Byte) :
    exec (.setBrightness level) s =
      let func := withBrightness s.cfg (brightnessCode s.cfg level) s.func
      .next (({ s with func := func } : State).sent (frameWord s.cfg.modeCmd (s.cfg.opFunc ||| func))) := by
  rw [exec_eq_complete, plan, planSetBrightness, State.accept_ready h]
  simp [callWord, registerPayload, commandPayload]

/-- `setBrightness` answers a state only where it may be issued (60_exceptions.md R118). -/
theorem ready_of_exec_setBrightness {s t : State} {level : Byte} (h : exec (.setBrightness level) s = .next t) :
    s.Ready := by
  obtain ⟨_, accepted, _⟩ := exec_next h
  exact (State.accept_ok accepted).1

/-! ## An unrecognised level -/

/-- A level that is none of the four has no code (30_encoding.md R52). -/
theorem brightnessCode_unrecognised (P : Params) {level : Byte} (h : level.toNat ∉ [100, 75, 50, 25]) :
    brightnessCode P level = none := by
  have other : level ≠ 100 ∧ level ≠ 75 ∧ level ≠ 50 ∧ level ≠ 25 := by
    refine ⟨?_, ?_, ?_, ?_⟩ <;> rintro rfl <;> exact h (by decide)
  obtain ⟨h100, h75, h50, h25⟩ := other
  rw [brightnessCode, if_neg h100, if_neg h75, if_neg h50, if_neg h25]

/-- With no code there is nothing to put into FUNC, masked or not (45_brightness.md R102, R104). -/
@[simp] theorem withBrightness_none (P : Params) (func : Byte) : withBrightness P none func = func := rfl

/-- At an unrecognised level `setBrightness` sends the register as it is, and does nothing else (45_brightness.md
R102). -/
theorem exec_setBrightness_unrecognised {s : State} (h : s.Ready) {level : Byte}
    (other : level.toNat ∉ [100, 75, 50, 25]) :
    exec (.setBrightness level) s = .next (s.sent (frameWord s.cfg.modeCmd (s.cfg.opFunc ||| s.func))) := by
  rw [exec_setBrightness h, brightnessCode_unrecognised s.cfg other, withBrightness_none]

/-- Settles O28: the state answered is the one with the current FUNC sent, whose registers and returned values are the
old ones; in R102's example that frame is the literal F838. -/
theorem unrecognisedLevelOnlyRetransmits : Obligations.UnrecognisedLevelOnlyRetransmits := by
  unfold Obligations.UnrecognisedLevelOnlyRetransmits
  refine ⟨fun s level hp hs other => ?_, fun s t hcfg hfunc h => ?_⟩
  · exact ⟨_, exec_setBrightness_unrecognised ⟨hp, hs⟩ other, rfl, rfl, rfl⟩
  · rw [exec_setBrightness_unrecognised (ready_of_exec_setBrightness h) (by decide)] at h
    cases h
    have frame : frameWord s.cfg.modeCmd (s.cfg.opFunc ||| s.func) = 0xF838 := by
      rw [hcfg, hfunc]
      decide
    exact ⟨hfunc, by rw [State.framesOf_sent, frame]⟩

end Sys2Proof.Machine
end

section
/-!
PROOFS. Custom glyphs (46_custom_glyph.md): the location enters `createChar` through the location mask alone (R106),
and the first of its frames carries the masked location's CGRAM address (R105).
-/

namespace Sys2Proof.Machine

/-! ## The location mask -/

/-- Masking a location before it is masked changes no CGRAM address (46_custom_glyph.md R106). -/
@[simp] theorem cgramAddress_and_locMask (P : Params) (location : Byte) :
    cgramAddress P (location &&& P.locMask) = cgramAddress P location := by
  rw [cgramAddress, cgramAddress, BitVec.and_assoc, BitVec.and_self]

/-- A location and its masked form give the same SET_CGRAM_ADDR payload (46_custom_glyph.md R106). -/
@[simp] theorem cgramPayload_and_locMask (P : Params) (location : Byte) :
    cgramPayload P (location &&& P.locMask) = cgramPayload P location := by
  rw [cgramPayload, cgramPayload, cgramAddress_and_locMask]

/-- The plan of `createChar` holds no bit of the location outside the mask, accepted or refused
(46_custom_glyph.md R106). -/
theorem plan_createChar_and_locMask (location : Byte) (glyph : List Byte) (s : State) :
    plan (.createChar (location &&& s.cfg.locMask) glyph) s = plan (.createChar location glyph) s := by
  simp only [plan, planCreateChar, createCharSteps, cgramPayload_and_locMask]

/-- With the source's mask of three bits a location has the outcome of its low three bits (46_custom_glyph.md R106). -/
theorem exec_createChar_and_seven {s : State} (mask : s.cfg.locMask = 7) (location : Byte) (glyph : List Byte) :
    exec (.createChar location glyph) s = exec (.createChar (location &&& 7) glyph) s := by
  rw [exec_eq_complete, exec_eq_complete, ← mask, plan_createChar_and_locMask]

/-! ## The frames of `createChar` -/

/-- Running calls of the Transport adds one frame for each, in order (40_transport.md R70). -/
theorem State.framesOf_run_calls (s : State) (calls : List Call) :
    framesOf (s.run (calls.map .call)).trace = framesOf s.trace ++ calls.map (callWord s.cfg) := by
  induction calls generalizing s with
  | nil => simp
  | cons c cs ih =>
    rw [List.map_cons, State.run_cons, State.seqStep_call, ih, State.framesOf_sent, State.sent_cfg,
      List.map_cons, List.append_assoc, List.singleton_append]

/-- The frames `createChar` adds: the address, the glyph's bytes in index order, the tail (46_custom_glyph.md R105). -/
theorem framesOf_exec_createChar {s t : State} {location : Byte} {glyph : List Byte}
    (h : exec (.createChar location glyph) s = .next t) :
    framesOf t.trace = framesOf s.trace ++ frameWord s.cfg.modeCmd (cgramPayload s.cfg location) ::
      (glyph.map (frameWord s.cfg.modeData) ++ [frameWord s.cfg.modeCmd (tailPayload s.cfg)]) := by
  obtain ⟨j, accepted, rfl⟩ := exec_next h
  obtain ⟨-, planned⟩ := State.accept_ok accepted
  split at planned
  · cases planned
    have calls : createCharSteps s.cfg location glyph =
        (Call.command (cgramPayload s.cfg location) ::
          (glyph.map Call.data ++ [Call.command (tailPayload s.cfg)])).map .call := by
      simp [createCharSteps]
    rw [calls, State.framesOf_run_calls]
    simp [callWord]
  · cases planned

/-! ## The first payload under the defaults -/

/-- The low three bits of a location are its remainder by eight. -/
theorem and_seven_eq_ofNat_mod (location : Byte) : location &&& 7 = BitVec.ofNat 8 (location.toNat % 8) := by
  apply BitVec.eq_of_toNat_eq
  rw [BitVec.toNat_and, BitVec.toNat_ofNat, Nat.mod_eq_of_lt (by omega)]
  exact Nat.and_two_pow_sub_one_eq_mod location.toNat 3

/-- The eight payloads of R106's list, by masked location. -/
theorem cgramPayload_default (location : Byte) :
    cgramPayload Params.default location =
      [0x40, 0x48, 0x50, 0x58, 0x60, 0x68, 0x70, 0x78].getD (location.toNat % 8) 0 := by
  have masked : cgramPayload Params.default location = cgramPayload Params.default (location &&& 7) :=
    (cgramPayload_and_locMask Params.default location).symm
  have listed : ∀ k < 8, cgramPayload Params.default (BitVec.ofNat 8 k) =
      [0x40, 0x48, 0x50, 0x58, 0x60, 0x68, 0x70, 0x78].getD k 0 := by decide
  rw [masked, and_seven_eq_ofNat_mod]
  exact listed _ (Nat.mod_lt _ (by decide))

/-- Settles O33: the plan sees the location through the mask, which gives the named locations, and the first frame
added carries the payload listed for the masked location. -/
theorem glyphLocationWraps : Obligations.GlyphLocationWraps := by
  unfold Obligations.GlyphLocationWraps
  refine ⟨fun s location glyph mask => exec_createChar_and_seven mask location glyph, fun s glyph mask => ?_,
    fun s t location glyph hcfg h => ?_⟩
  · exact ⟨exec_createChar_and_seven mask 9 glyph, exec_createChar_and_seven mask 8 glyph,
      exec_createChar_and_seven mask 255 glyph⟩
  · rw [framesOf_exec_createChar h, List.getElem?_append_right (Nat.le_refl _), Nat.sub_self,
      List.getElem?_cons_zero, hcfg, cgramPayload_default]
    rfl

end Sys2Proof.Machine
end

section
/-!
PROOFS. Clear and home (48_clear_home.md): each sends one command frame and changes no register; `clear` waits
`T_CLEAR` after its frame (R110), `home` does nothing after it (R111).
-/

namespace Sys2Proof

/-- Select code 2 is `clear`, whatever the operand fields and the side operand (30_encoding.md R55). -/
@[simp] theorem decodeRequest_requestWord_clear (a b : Byte) (g : BitVec 64) :
    decodeRequest ⟨requestWord 2 a b, g⟩ = .ok .clear := by
  simp [decodeRequest]

/-- Select code 3 is `home`, whatever the operand fields and the side operand (30_encoding.md R55). -/
@[simp] theorem decodeRequest_requestWord_home (a b : Byte) (g : BitVec 64) :
    decodeRequest ⟨requestWord 3 a b, g⟩ = .ok .home := by
  simp [decodeRequest]

end Sys2Proof

namespace Sys2Proof.Machine

/-! ## What the views of the trace see of a frame and of a wait -/

/-- A frame adds its own waits (40_transport.md R70). -/
theorem State.unitsOf_sent (s : State) (w : FrameWord) :
    unitsOf (s.sent w).trace = unitsOf s.trace + (2 * s.cfg.tStb + 32 * s.cfg.tHalf) := by
  rw [State.sent_trace, unitsOf_append, unitsOf_frameEvents]

/-- A wait adds its units (70_reset_and_hazards.md R147). -/
theorem State.unitsOf_waited (s : State) (n : Nat) : unitsOf (s.waited n).trace = unitsOf s.trace + n := by
  simp

/-- A wait is in no frame (40_transport.md R70). -/
theorem State.framesOf_waited (s : State) (n : Nat) : framesOf (s.waited n).trace = framesOf s.trace := by
  simp

/-! ## What the two operations answer -/

/-- An operation whose plan passes through `accept` answers a state only where it may be issued (60_exceptions.md
R118). -/
theorem ready_of_exec_next {i : Instr} {s t : State} {job : Except Refusal Job} (host : plan i s = s.accept job)
    (h : exec i s = .next t) : s.Ready := by
  obtain ⟨_, accepted, _⟩ := exec_next h
  exact (State.accept_ok (host ▸ accepted)).1

/-- What `clear` answers when it may be issued (48_clear_home.md R110). -/
theorem exec_clear {s : State} (h : s.Ready) :
    exec .clear s = .next ((s.sent (frameWord s.cfg.modeCmd s.cfg.opClear)).waited s.cfg.tClear) := by
  rw [exec_eq_complete, plan, planClear, State.accept_ready h]
  simp [callWord]

/-- If `clear` answers a state, it is the one with its frame sent and its wait made (48_clear_home.md R110). -/
theorem exec_clear_next {s t : State} (h : exec .clear s = .next t) :
    t = (s.sent (frameWord s.cfg.modeCmd s.cfg.opClear)).waited s.cfg.tClear := by
  rw [exec_clear (ready_of_exec_next rfl h)] at h
  cases h
  rfl

/-- What `home` answers when it may be issued (48_clear_home.md R111). -/
theorem exec_home {s : State} (h : s.Ready) :
    exec .home s = .next (s.sent (frameWord s.cfg.modeCmd s.cfg.opHome)) := by
  rw [exec_eq_complete, plan, planHome, State.accept_ready h]
  simp [callWord]

/-- If `home` answers a state, it is the one with its frame sent (48_clear_home.md R111). -/
theorem exec_home_next {s t : State} (h : exec .home s = .next t) :
    t = s.sent (frameWord s.cfg.modeCmd s.cfg.opHome) := by
  rw [exec_home (ready_of_exec_next rfl h)] at h
  cases h
  rfl

/-! ## The two statements -/

/-- Settles O23: `clear` answers the state with one frame and one wait more; the events, units and frames are read off
that state, a second `clear` runs from it with the same parameters, and the request's operands are not decoded. -/
theorem clearSendsAndWaits : Obligations.ClearSendsAndWaits := by
  unfold Obligations.ClearSendsAndWaits
  refine ⟨fun s hp hs => exec_clear ⟨hp, hs⟩, fun s t h => ?_, fun s t u h h' => ?_, decodeRequest_requestWord_clear⟩
  · obtain rfl := exec_clear_next h
    rw [State.unitsOf_waited, State.unitsOf_sent, State.framesOf_waited, State.framesOf_sent]
    refine ⟨by simp, rfl, fun hcfg => ?_⟩
    have frame : frameWord Params.default.modeCmd Params.default.opClear = 0xF801 := by decide
    rw [hcfg, frame]
    exact ⟨rfl, rfl⟩
  · obtain rfl := exec_clear_next h
    exact exec_clear_next h'

/-- Settles O24: `home` answers the state with one frame more; the events, units and frames are read off that state,
and the request's operands are not decoded. -/
theorem homeSendsOneFrame : Obligations.HomeSendsOneFrame := by
  unfold Obligations.HomeSendsOneFrame
  refine ⟨fun s hp hs => exec_home ⟨hp, hs⟩, fun s t h => ?_, decodeRequest_requestWord_home⟩
  obtain rfl := exec_home_next h
  rw [State.unitsOf_sent, State.framesOf_sent]
  refine ⟨by simp, rfl, fun hcfg => ?_⟩
  have frame : frameWord Params.default.modeCmd Params.default.opHome = 0xF802 := by decide
  rw [hcfg, frame]
  exact ⟨rfl, rfl⟩

end Sys2Proof.Machine
end

section
/-!
PROOFS. The decoder and the encoder (30_encoding.md): a payload's highest set bit names its frame type (R51), and
a well-formed instruction is what its encoding decodes to.
-/

namespace Sys2Proof

/-! ## Opcodes: single bits in ascending order (00_scope.md R7, item 6) -/

theorem Byte.isSingleBit_iff {b : Byte} : b.isSingleBit = true ↔ ∃ k < 8, b = 1#8 <<< k := by
  simp [Byte.isSingleBit]

theorem Byte.toNat_of_isSingleBit {b : Byte} (h : b.isSingleBit) : ∃ k < 8, b.toNat = 2 ^ k := by
  obtain ⟨k, hk, rfl⟩ := Byte.isSingleBit_iff.mp h
  have small : 2 ^ k < 256 := Nat.pow_lt_pow_right (n := 8) (by decide) hk
  exact ⟨k, hk, by simp [Nat.shiftLeft_eq, small]⟩

theorem Byte.toNat_pos_of_isSingleBit {b : Byte} (h : b.isSingleBit) : 0 < b.toNat := by
  obtain ⟨k, -, hk⟩ := Byte.toNat_of_isSingleBit h
  rw [hk]
  exact Nat.two_pow_pos k

/-- The larger of two single-bit masks is at least twice the smaller. -/
theorem Byte.two_mul_toNat_le {a b : Byte} (ha : a.isSingleBit) (hb : b.isSingleBit) (h : a < b) :
    2 * a.toNat ≤ b.toNat := by
  obtain ⟨k, -, hk⟩ := Byte.toNat_of_isSingleBit ha
  obtain ⟨l, -, hl⟩ := Byte.toNat_of_isSingleBit hb
  have lt : 2 ^ k < 2 ^ l := by rw [← hk, ← hl]; exact h
  have le : 2 ^ (k + 1) ≤ 2 ^ l := Nat.pow_le_pow_right (by decide) ((Nat.pow_lt_pow_iff_right (by decide)).mp lt)
  omega

/-! ## An opcode with a field under it (30_encoding.md R46, R51) -/

theorem highestBit_iff {op v : Byte} : highestBit op v = true ↔ op.toNat ≤ v.toNat ∧ v.toNat < 2 * op.toNat := by
  simp [highestBit]

section
variable {op field : Byte} (single : op.isSingleBit) (under : field < op)
include single under

theorem opcode_and_field : op &&& field = 0 := by
  obtain ⟨k, -, hk⟩ := Byte.toNat_of_isSingleBit single
  have lt : field.toNat < 2 ^ k := by rw [← hk]; exact under
  apply BitVec.eq_of_toNat_eq
  rw [BitVec.toNat_and, hk, Nat.two_pow_and, Nat.testBit_lt_two_pow lt]
  rfl

/-- Under its opcode a field is added. -/
theorem toNat_commandPayload : (commandPayload op field).toNat = op.toNat + field.toNat := by
  obtain ⟨k, -, hk⟩ := Byte.toNat_of_isSingleBit single
  have lt : field.toNat < 2 ^ k := by rw [← hk]; exact under
  rw [commandPayload, BitVec.toNat_or, hk]
  simpa using (Nat.two_pow_add_eq_or_of_lt lt 1).symm

/-- The opcode is the highest set bit of a payload of its type (00_scope.md R7, item 6). -/
theorem highestBit_commandPayload : highestBit op (commandPayload op field) = true := by
  have lt : field.toNat < op.toNat := under
  rw [highestBit_iff, toNat_commandPayload single under]
  omega

/-- Clearing the opcode leaves the field (30_encoding.md R51). -/
theorem commandPayload_and_not : commandPayload op field &&& ~~~op = field := by
  have apart := opcode_and_field single under
  apply BitVec.eq_of_getLsbD_eq
  intro i hi
  have bit := congrArg (·.getLsbD i) apart
  simp only [BitVec.getLsbD_and, BitVec.ofNat_eq_ofNat, BitVec.getLsbD_zero] at bit
  simp only [commandPayload, BitVec.getLsbD_and, BitVec.getLsbD_or, BitVec.getLsbD_not, hi, decide_true, Bool.true_and]
  grind

end

/-- A payload whose highest set bit is the opcode is the opcode with a field under it. -/
theorem exists_field_of_highestBit {op v : Byte} (single : op.isSingleBit) (h : highestBit op v = true) :
    ∃ field, field < op ∧ v = commandPayload op field := by
  obtain ⟨le, lt⟩ := highestBit_iff.mp h
  have sub : (v - op).toNat = v.toNat - op.toNat := BitVec.toNat_sub_of_le le
  have under : v - op < op := by rw [BitVec.lt_def, sub]; omega
  refine ⟨v - op, under, BitVec.eq_of_toNat_eq ?_⟩
  rw [toNat_commandPayload single under, sub]
  omega

/-- Putting the opcode back over the field it was cleared from. -/
theorem commandPayload_and_not_of_highestBit {op v : Byte} (single : op.isSingleBit) (h : highestBit op v = true) :
    commandPayload op (v &&& ~~~op) = v := by
  obtain ⟨field, under, rfl⟩ := exists_field_of_highestBit single h
  rw [commandPayload_and_not single under]

/-- Clearing the opcode is subtracting it. -/
theorem and_not_eq_sub_of_highestBit {op v : Byte} (single : op.isSingleBit) (h : highestBit op v = true) :
    v &&& ~~~op = v - op := by
  obtain ⟨field, under, rfl⟩ := exists_field_of_highestBit single h
  apply BitVec.eq_of_toNat_eq
  have sum := toNat_commandPayload single under
  rw [commandPayload_and_not single under, BitVec.toNat_sub_of_le (by rw [BitVec.le_def]; omega)]
  omega

/-! ## The type of a command payload (30_encoding.md R51)

Each opcode is at least twice the one before, so a payload has one opcode as its highest set bit and no other. -/

namespace Params.Valid

variable {P : Params} (hP : P.Valid)
include hP

/-- Each opcode is at least twice the one before it. -/
theorem opcodes_double :
    0 < P.opClear.toNat ∧ 2 * P.opClear.toNat ≤ P.opHome.toNat ∧ 2 * P.opHome.toNat ≤ P.opEntry.toNat ∧
    2 * P.opEntry.toNat ≤ P.opCtrl.toNat ∧ 2 * P.opCtrl.toNat ≤ P.opFunc.toNat ∧
    2 * P.opFunc.toNat ≤ P.opCgram.toNat ∧ 2 * P.opCgram.toNat ≤ P.opDdram.toNat := by
  obtain ⟨clear, home, entry, ctrl, func, cgram, ddram⟩ := hP.opcodesSingle
  obtain ⟨lt₁, lt₂, lt₃, lt₄, lt₅, lt₆⟩ := hP.opcodesOrdered
  exact ⟨Byte.toNat_pos_of_isSingleBit clear,
    Byte.two_mul_toNat_le clear home lt₁, Byte.two_mul_toNat_le home entry lt₂,
    Byte.two_mul_toNat_le entry ctrl lt₃, Byte.two_mul_toNat_le ctrl func lt₄,
    Byte.two_mul_toNat_le func cgram lt₅, Byte.two_mul_toNat_le cgram ddram lt₆⟩

theorem opEntry_single : P.opEntry.isSingleBit := hP.opcodesSingle.2.2.1
theorem opCtrl_single : P.opCtrl.isSingleBit := hP.opcodesSingle.2.2.2.1
theorem opFunc_single : P.opFunc.isSingleBit := hP.opcodesSingle.2.2.2.2.1
theorem opCgram_single : P.opCgram.isSingleBit := hP.opcodesSingle.2.2.2.2.2.1
theorem opDdram_single : P.opDdram.isSingleBit := hP.opcodesSingle.2.2.2.2.2.2

end Params.Valid

/-- A payload below an opcode does not have it as its highest set bit. -/
theorem not_highestBit_of_lt {op v : Byte} (h : v.toNat < op.toNat) : ¬ highestBit op v = true := by
  rw [highestBit_iff]
  omega

/-! ## The type of a command payload (30_encoding.md R51)

A payload has one opcode as its highest set bit, so it is below every later opcode. -/

theorem decodeCommand_ddram {P : Params} {v : Byte} (h : highestBit P.opDdram v = true) :
    decodeCommand P v = .setDdramAddr (v &&& ~~~P.opDdram) := if_pos h

namespace Params.Valid

variable {P : Params} (hP : P.Valid) {v : Byte}
include hP

theorem decodeCommand_cgram (h : highestBit P.opCgram v = true) :
    decodeCommand P v = .setCgramAddr (v &&& ~~~P.opCgram) := by
  obtain ⟨_, _, _, _, _, _, cgram_ddram⟩ := hP.opcodes_double
  obtain ⟨-, lt⟩ := highestBit_iff.mp h
  rw [decodeCommand, if_neg (not_highestBit_of_lt (by omega)), if_pos h]

theorem decodeCommand_func (h : highestBit P.opFunc v = true) :
    decodeCommand P v = .functionSet (v &&& ~~~P.opFunc) := by
  obtain ⟨_, _, _, _, _, func_cgram, cgram_ddram⟩ := hP.opcodes_double
  obtain ⟨-, lt⟩ := highestBit_iff.mp h
  rw [decodeCommand, if_neg (not_highestBit_of_lt (by omega)), if_neg (not_highestBit_of_lt (by omega)), if_pos h]

theorem decodeCommand_of_lt_func (h : v.toNat < P.opFunc.toNat) :
    decodeCommand P v =
      if highestBit P.opCtrl v then .displayControl (v &&& ~~~P.opCtrl)
      else if highestBit P.opEntry v then .entryModeSet (v &&& ~~~P.opEntry)
      else if v = P.opHome then .returnHome
      else if v = P.opClear then .clearDisplay
      else .command v := by
  obtain ⟨_, _, _, _, _, func_cgram, cgram_ddram⟩ := hP.opcodes_double
  rw [decodeCommand, if_neg (not_highestBit_of_lt (by omega)), if_neg (not_highestBit_of_lt (by omega)),
    if_neg (not_highestBit_of_lt h)]

theorem decodeCommand_ctrl (h : highestBit P.opCtrl v = true) :
    decodeCommand P v = .displayControl (v &&& ~~~P.opCtrl) := by
  obtain ⟨_, _, _, _, ctrl_func, _, _⟩ := hP.opcodes_double
  obtain ⟨-, lt⟩ := highestBit_iff.mp h
  rw [hP.decodeCommand_of_lt_func (by omega), if_pos h]

theorem decodeCommand_entry (h : highestBit P.opEntry v = true) :
    decodeCommand P v = .entryModeSet (v &&& ~~~P.opEntry) := by
  obtain ⟨_, _, _, entry_ctrl, ctrl_func, _, _⟩ := hP.opcodes_double
  obtain ⟨-, lt⟩ := highestBit_iff.mp h
  rw [hP.decodeCommand_of_lt_func (by omega), if_neg (not_highestBit_of_lt (by omega)), if_pos h]

/-- Below the entry mode's opcode two payloads alone have a type. -/
theorem decodeCommand_of_lt_entry (h : v.toNat < P.opEntry.toNat) :
    decodeCommand P v =
      if v = P.opHome then .returnHome else if v = P.opClear then .clearDisplay else .command v := by
  obtain ⟨_, _, _, entry_ctrl, ctrl_func, _, _⟩ := hP.opcodes_double
  rw [hP.decodeCommand_of_lt_func (by omega), if_neg (not_highestBit_of_lt (by omega)),
    if_neg (not_highestBit_of_lt h)]

theorem decodeCommand_home : decodeCommand P P.opHome = .returnHome := by
  obtain ⟨_, _, home_entry, _⟩ := hP.opcodes_double
  rw [hP.decodeCommand_of_lt_entry (by omega), if_pos rfl]

theorem decodeCommand_clear : decodeCommand P P.opClear = .clearDisplay := by
  obtain ⟨clear_pos, clear_home, home_entry, _⟩ := hP.opcodes_double
  have differ : P.opClear ≠ P.opHome := fun same => by rw [same] at clear_pos clear_home; omega
  rw [hP.decodeCommand_of_lt_entry (by omega), if_neg differ, if_pos rfl]

end Params.Valid

/-! ## The type of a frame the block composes (30_encoding.md R46, R51) -/

@[simp] theorem decodeFrame_modeCmd (P : Params) (v : Byte) :
    decodeFrame P (frameWord P.modeCmd v) = decodeCommand P v := by
  simp [decodeFrame]

namespace Params.Valid

variable {P : Params} (hP : P.Valid) {field : Byte}
include hP

theorem decodeFrame_data (v : Byte) : decodeFrame P (frameWord P.modeData v) = .dataWrite v := by
  simp [decodeFrame, hP.modesDiffer.symm]

theorem decodeFrame_clear : decodeFrame P (frameWord P.modeCmd P.opClear) = .clearDisplay := by
  rw [decodeFrame_modeCmd, hP.decodeCommand_clear]

theorem decodeFrame_home : decodeFrame P (frameWord P.modeCmd P.opHome) = .returnHome := by
  rw [decodeFrame_modeCmd, hP.decodeCommand_home]

theorem decodeFrame_entry (under : field < P.opEntry) :
    decodeFrame P (frameWord P.modeCmd (commandPayload P.opEntry field)) = .entryModeSet field := by
  rw [decodeFrame_modeCmd, hP.decodeCommand_entry (highestBit_commandPayload hP.opEntry_single under),
    commandPayload_and_not hP.opEntry_single under]

theorem decodeFrame_ctrl (under : field < P.opCtrl) :
    decodeFrame P (frameWord P.modeCmd (commandPayload P.opCtrl field)) = .displayControl field := by
  rw [decodeFrame_modeCmd, hP.decodeCommand_ctrl (highestBit_commandPayload hP.opCtrl_single under),
    commandPayload_and_not hP.opCtrl_single under]

theorem decodeFrame_func (under : field < P.opFunc) :
    decodeFrame P (frameWord P.modeCmd (commandPayload P.opFunc field)) = .functionSet field := by
  rw [decodeFrame_modeCmd, hP.decodeCommand_func (highestBit_commandPayload hP.opFunc_single under),
    commandPayload_and_not hP.opFunc_single under]

theorem decodeFrame_cgram (under : field < P.opCgram) :
    decodeFrame P (frameWord P.modeCmd (commandPayload P.opCgram field)) = .setCgramAddr field := by
  rw [decodeFrame_modeCmd, hP.decodeCommand_cgram (highestBit_commandPayload hP.opCgram_single under),
    commandPayload_and_not hP.opCgram_single under]

theorem decodeFrame_ddram (under : field < P.opDdram) :
    decodeFrame P (frameWord P.modeCmd (commandPayload P.opDdram field)) = .setDdramAddr field := by
  rw [decodeFrame_modeCmd, decodeCommand_ddram (highestBit_commandPayload hP.opDdram_single under),
    commandPayload_and_not hP.opDdram_single under]

end Params.Valid

/-! ## The operands of a request (30_encoding.md R55) -/

@[simp] theorem third_setWidth (word : BitVec 20) (c : LineId) : (Request.mk word (c.setWidth 64)).third = c := by
  apply BitVec.eq_of_getLsbD_eq
  intro i hi
  have wide : i < 64 := by omega
  simp [Request.third, hi, wide]

/-- A glyph of `n` bytes leaves the side operand's bits from `8 * n` on clear. -/
theorem getLsbD_sideOfGlyph_of_le (glyph : List Byte) {i : Nat} (h : 8 * glyph.length ≤ i) :
    (sideOfGlyph glyph).getLsbD i = false := by
  induction glyph generalizing i with
  | nil => simp [sideOfGlyph]
  | cons v vs ih =>
    rw [List.length_cons] at h
    have high : v.getLsbD i = false := BitVec.getLsbD_of_ge v i (by omega)
    simp [sideOfGlyph, high, ih (i := i - 8) (by omega)]

/-- The lowest byte of a side operand is the glyph's first. -/
theorem extractLsb'_sideOfGlyph_cons (v : Byte) (vs : List Byte) :
    (sideOfGlyph (v :: vs)).extractLsb' 0 8 = v := by
  apply BitVec.eq_of_getLsbD_eq
  intro i hi
  have wide : i < 64 := by omega
  simp [sideOfGlyph, hi, wide]

/-- The bytes above the lowest are those of the rest of the glyph, when they fit. -/
theorem sideOfGlyph_cons_shiftRight (v : Byte) {vs : List Byte} (fits : vs.length < 8) :
    sideOfGlyph (v :: vs) >>> 8 = sideOfGlyph vs := by
  apply BitVec.eq_of_getLsbD_eq
  intro i hi
  by_cases top : 8 + i < 64
  · simp [sideOfGlyph, top, BitVec.getLsbD_eq_getElem hi]
  · simp [sideOfGlyph, top, getLsbD_sideOfGlyph_of_le vs (i := i) (by omega)]

/-- The side operand carries a glyph of at most eight bytes whole (30_encoding.md R55). -/
theorem glyphOfSide_sideOfGlyph (glyph : List Byte) (fits : glyph.length ≤ 8) :
    glyphOfSide glyph.length (sideOfGlyph glyph) = glyph := by
  induction glyph with
  | nil => rfl
  | cons v vs ih =>
    rw [List.length_cons] at fits
    rw [List.length_cons, glyphOfSide, extractLsb'_sideOfGlyph_cons, sideOfGlyph_cons_shiftRight v (by omega),
      ih (by omega)]

@[simp] theorem glyphOfSide_length (n : Nat) (g : BitVec 64) : (glyphOfSide n g).length = n := by
  induction n generalizing g with
  | zero => rfl
  | succ n ih => rw [glyphOfSide, List.length_cons, ih]

/-! ## Decoding inverts encoding -/

theorem underOpcode_iff {op field : Byte} : underOpcode op field = true ↔ field < op := by
  simp [underOpcode]

/-- A frame is decoded to the row it is the frame of. -/
theorem decode_frame (P : Params) (w : FrameWord) : decode P (.call (.frame w)) = .ok (decodeFrame P w) := rfl

/-- Settles O41: a frame row by its payload's highest bit, a host operation by its select code and operand bytes, an
inner primitive by its name. -/
theorem decodeInvertsEncode : Obligations.DecodeInvertsEncode := by
  unfold Obligations.DecodeInvertsEncode
  intro P i hP wf
  cases i with
  | clearDisplay => rw [encode, decode_frame, hP.decodeFrame_clear]
  | returnHome => rw [encode, decode_frame, hP.decodeFrame_home]
  | entryModeSet entry => rw [encode, decode_frame, hP.decodeFrame_entry (underOpcode_iff.mp wf)]
  | displayControl ctrl => rw [encode, decode_frame, hP.decodeFrame_ctrl (underOpcode_iff.mp wf)]
  | functionSet func => rw [encode, decode_frame, hP.decodeFrame_func (underOpcode_iff.mp wf)]
  | setCgramAddr addr => rw [encode, decode_frame, hP.decodeFrame_cgram (underOpcode_iff.mp wf)]
  | setDdramAddr addr => rw [encode, decode_frame, hP.decodeFrame_ddram (underOpcode_iff.mp wf)]
  | dataWrite v => rw [encode, decode_frame, hP.decodeFrame_data]
  | createChar location glyph =>
    have eight : glyph.length = 8 := of_decide_eq_true wf
    have carried := glyphOfSide_sideOfGlyph glyph (by omega)
    rw [eight] at carried
    simp [encode, decode, decodeRequest, Config.glyphRows, carried]
  | transmit mode payload => simp [encode, decode, decodeCall]
  | command v => rfl
  | data v => rfl
  | _ => simp [encode, decode, decodeRequest]

end Sys2Proof
end

section
/-!
PROOFS. Decoding against the tables (30_encoding.md): the word an instruction puts on the wire is the word it was
decoded from, the ranges of the default parameters (00_scope.md R6), and what a request can select (R54, R55).
-/

namespace Sys2Proof

/-! ## The word an instruction puts on the wire -/

/-- Whatever type its payload has, a command frame's instruction sends that payload (30_encoding.md R46, R51). -/
theorem instrWord_decodeCommand {P : Params} (hP : P.Valid) (v : Byte) :
    instrWord P (decodeCommand P v) = some (frameWord P.modeCmd v) := by
  rw [decodeCommand]
  split
  · next h => simp [instrWord, encode, callWord, commandPayload_and_not_of_highestBit hP.opDdram_single h]
  split
  · next h => simp [instrWord, encode, callWord, commandPayload_and_not_of_highestBit hP.opCgram_single h]
  split
  · next h => simp [instrWord, encode, callWord, commandPayload_and_not_of_highestBit hP.opFunc_single h]
  split
  · next h => simp [instrWord, encode, callWord, commandPayload_and_not_of_highestBit hP.opCtrl_single h]
  split
  · next h => simp [instrWord, encode, callWord, commandPayload_and_not_of_highestBit hP.opEntry_single h]
  split
  · next h => simp [instrWord, encode, callWord, h]
  split
  · next h => simp [instrWord, encode, callWord, h]
  · rfl

/-- Settles O42: a command word's instruction carries the opcode's field, which the opcode is put back over; any other
word's instruction carries the word's bytes as they are. -/
theorem decodingKeepsEveryFrameBit : Obligations.DecodingKeepsEveryFrameBit := by
  unfold Obligations.DecodingKeepsEveryFrameBit
  intro P w hP
  rw [decodeFrame]
  split
  · next command => rw [instrWord_decodeCommand hP, ← command, frameWord_fields]
  split
  · next _ data => simp [instrWord, encode, callWord, ← data]
  · simp [instrWord, encode, callWord]

/-! ## The default parameters -/

/-- Settles O50, item by item; the two mode sentinels agree from bit 4 on. -/
theorem defaultParametersAreValid : Obligations.DefaultParametersAreValid where
  modesDiffer := by decide
  modesShareTop := ⟨4, by decide⟩
  ctrlSingle := by decide
  ctrlDistinct := by decide
  entrySingle := by decide
  entryDistinct := by decide
  twoLineSingle := by decide
  brtMaskTwo := by decide
  brtCodesInMask := by decide
  brtCodesDistinct := by decide
  funcFieldsDisjoint := by decide
  resetOneLine := by decide
  resetFullBright := by decide
  opcodesDisjoint := by decide
  opcodesSingle := by decide
  opcodesOrdered := by decide
  opcodesHighest := by decide
  ddramHighest := by decide
  cgramFits := by decide
  ctrlInitNamed := by decide
  entryInitNamed := by decide
  funcResetNamed := by decide
  resetIfwidth := by decide

/-- A payload between the function and the control opcodes' ranges is of no type (log 8). -/
theorem decodeCommand_default_unnamed {v : Byte} (lo : 0x10 ≤ v.toNat) (hi : v.toNat ≤ 0x1F) :
    decodeCommand Params.default v = .command v := by
  have above : ∀ op : Byte, op.toNat ≤ 8 → ¬ highestBit op v = true ∧ v ≠ op := fun op small =>
    ⟨fun h => by rw [highestBit_iff] at h; omega, fun same => by rw [same] at lo; omega⟩
  have below : v.toNat < Params.default.opFunc.toNat := Nat.lt_succ_of_le hi
  rw [defaultParametersAreValid.decodeCommand_of_lt_func below, if_neg (above _ (by decide)).1,
    if_neg (above _ (by decide)).1, if_neg (above _ (by decide)).2, if_neg (above _ (by decide)).2]

/-- Settles O43: a typed range is where its opcode is the highest set bit, and there the field is what is left of the
opcode. -/
theorem commandPayloadRanges : Obligations.CommandPayloadRanges := by
  unfold Obligations.CommandPayloadRanges
  have valid : Params.default.Valid := defaultParametersAreValid
  intro v
  have command : decodeFrame Params.default (frameWord 0xF8 v) = decodeCommand Params.default v :=
    decodeFrame_modeCmd Params.default v
  have exact : ∀ u : Byte, v.toNat = u.toNat → v = u := fun _ => BitVec.eq_of_toNat_eq
  rw [command]
  refine ⟨fun lo => ?_, fun h => ?_, fun h => ?_, fun h => decodeCommand_default_unnamed h.1 h.2, fun h => ?_,
    fun h => ?_, fun h => ?_, fun h => ?_, fun h => ?_, fun h => ?_, valid.decodeFrame_data v⟩
  · have top : highestBit Params.default.opDdram v = true := highestBit_iff.mpr ⟨lo, v.isLt⟩
    rw [decodeCommand_ddram top, and_not_eq_sub_of_highestBit valid.opDdram_single top]
    rfl
  · have top : highestBit Params.default.opCgram v = true := highestBit_iff.mpr ⟨h.1, Nat.lt_succ_of_le h.2⟩
    rw [valid.decodeCommand_cgram top, and_not_eq_sub_of_highestBit valid.opCgram_single top]
    rfl
  · have top : highestBit Params.default.opFunc v = true := highestBit_iff.mpr ⟨h.1, Nat.lt_succ_of_le h.2⟩
    rw [valid.decodeCommand_func top, and_not_eq_sub_of_highestBit valid.opFunc_single top]
    rfl
  · have top : highestBit Params.default.opCtrl v = true := highestBit_iff.mpr ⟨h.1, Nat.lt_succ_of_le h.2⟩
    rw [valid.decodeCommand_ctrl top, and_not_eq_sub_of_highestBit valid.opCtrl_single top]
    rfl
  · have top : highestBit Params.default.opEntry v = true := highestBit_iff.mpr ⟨h.1, Nat.lt_succ_of_le h.2⟩
    rw [valid.decodeCommand_entry top, and_not_eq_sub_of_highestBit valid.opEntry_single top]
    rfl
  · rw [exact 3 h]
    decide
  · exact exact 2 h ▸ valid.decodeCommand_home
  · exact exact 1 h ▸ valid.decodeCommand_clear
  · rw [exact 0 h]
    decide

/-- Settles O45, each word by its fields. -/
theorem wordsDecodeToTheirInstructions : Obligations.WordsDecodeToTheirInstructions := by
  unfold Obligations.WordsDecodeToTheirInstructions
  decide

/-! ## Requests -/

/-- A request that decodes gives a host operation, with an eight-byte glyph where there is one, and has one of the
fourteen select codes (30_encoding.md R54, R55). -/
theorem decodeRequest_ok {r : Request} {i : Instr} (P : Params) (h : decodeRequest r = .ok i) :
    i.isHostOp = true ∧ i.wf P = true ∧ r.op.toNat ≤ 13 := by
  rw [decodeRequest] at h
  split at h <;> cases h
  all_goals
    next code => exact ⟨rfl, by simp [Instr.wf], code.trans_le (by decide)⟩

/-- Select codes 14 and 15 select nothing (30_encoding.md R55). -/
theorem decodeRequest_noSuchOperation {r : Request} (h : 14 ≤ r.op.toNat) :
    decodeRequest r = .error (.noSuchOperation r.op) := by
  have code : r.op.toNat = 14 ∨ r.op.toNat = 15 := by omega
  rcases code with code | code <;> simp [decodeRequest, code]

/-- Settles O44 by the cases of the select code. -/
theorem requestsSelectHostOperations : Obligations.RequestsSelectHostOperations :=
  ⟨fun _ _ P => decodeRequest_ok P, fun _ => decodeRequest_noSuchOperation⟩

end Sys2Proof
end

section
/-!
PROOFS. What each instruction answers: the inner rows send the word they are encoded as (41_command_frames.md R75 to
R82, 40_transport.md R73), the host operations make their register writes and run their fixed sequence (10_state.md,
section 10), and nothing but the closed list of 60_exceptions.md R118 is refused. `Answers` says it once, for every
instruction; later proofs take an outcome apart with `answers_of_exec`.
-/

namespace Sys2Proof.Machine

/-! ## Sequences of frames -/

/-- The state after several frames more. -/
def State.sentAll (s : State) (ws : List FrameWord) : State := ws.foldl State.sent s

@[simp] theorem State.sentAll_nil (s : State) : s.sentAll [] = s := rfl

@[simp] theorem State.sentAll_cons (s : State) (w : FrameWord) (ws : List FrameWord) :
    s.sentAll (w :: ws) = (s.sent w).sentAll ws := rfl

/-- Calls of the Transport one after another send their words. -/
theorem State.run_calls (s : State) (calls : List Call) :
    s.run (calls.map .call) = s.sentAll (calls.map (callWord s.cfg)) := by
  induction calls generalizing s with
  | nil => rfl
  | cons c cs ih => rw [List.map_cons, State.run_cons, State.seqStep_call, ih, List.map_cons, State.sentAll_cons]; rfl

/-- Of the frames before the last only the events are left. -/
@[simp] theorem State.sentAll_concat (s : State) (ws : List FrameWord) (w : FrameWord) :
    s.sentAll (ws ++ [w]) = ({ s with trace := s.trace ++ ws.flatMap (frameEvents s.cfg) } : State).sent w := by
  induction ws generalizing s with
  | nil => simp
  | cons x xs ih =>
    rw [List.cons_append, State.sentAll_cons, ih]
    simp [State.sent]

/-! ## The kinds of instruction -/

/-- What a toggle does to CTRL (43_toggles.md R91 to R96); no other instruction is a toggle. -/
def toggleChange : Instr → Option (Params → Byte → Byte)
  | .display => some fun P c => setFlag c P.ctrlDisplay
  | .noDisplay => some fun P c => clearFlag c P.ctrlDisplay
  | .cursor => some fun P c => setFlag c P.ctrlCursor
  | .noCursor => some fun P c => clearFlag c P.ctrlCursor
  | .blink => some fun P c => setFlag c P.ctrlBlink
  | .noBlink => some fun P c => clearFlag c P.ctrlBlink
  | _ => none

theorem plan_toggle {i : Instr} {f : Params → Byte → Byte} (change : toggleChange i = some f) (s : State) :
    plan i s = s.toggle (f s.cfg) := by
  cases i <;> cases change <;> rfl

theorem mem_toggles_iff {i : Instr} :
    i ∈ [Instr.display, .noDisplay, .cursor, .noCursor, .blink, .noBlink] ↔ ∃ f, toggleChange i = some f := by
  cases i <;> simp [toggleChange]

/-- An inner instruction, a frame type or a primitive, is a call of the Transport with the word it is encoded as. -/
theorem plan_inner {i : Instr} (inner : i.isHostOp = false) (s : State) :
    ∃ c, plan i s = s.internal c ∧ instrWord s.cfg i = some (callWord s.cfg c) := by
  cases i with
  | clearDisplay => exact ⟨_, rfl, rfl⟩
  | returnHome => exact ⟨_, rfl, rfl⟩
  | entryModeSet _ => exact ⟨_, rfl, rfl⟩
  | displayControl _ => exact ⟨_, rfl, rfl⟩
  | functionSet _ => exact ⟨_, rfl, rfl⟩
  | setCgramAddr _ => exact ⟨_, rfl, rfl⟩
  | setDdramAddr _ => exact ⟨_, rfl, rfl⟩
  | dataWrite _ => exact ⟨_, rfl, rfl⟩
  | transmit _ _ => exact ⟨_, rfl, rfl⟩
  | command _ => exact ⟨_, rfl, rfl⟩
  | data _ => exact ⟨_, rfl, rfl⟩
  | _ => cases inner

/-- A host operation has no word of its own on the wire (30_encoding.md R57). -/
theorem isHostOp_of_instrWord {P : Params} {i : Instr} {w : FrameWord} (word : instrWord P i = some w) :
    i.isHostOp = false := by
  cases i <;> cases word <;> rfl

/-- Case analysis by kind: the inner instructions together, the six toggles together, the other host operations. -/
theorem Instr.byKind {motive : Instr → Prop} (inner : ∀ i : Instr, i.isHostOp = false → motive i)
    (toggle : ∀ i f, toggleChange i = some f → motive i)
    (construct : ∀ a b c, motive (.construct a b c)) (begin : ∀ cols rows, motive (.begin cols rows))
    (clear : motive .clear) (home : motive .home) (setCursor : ∀ col row, motive (.setCursor col row))
    (setBrightness : ∀ level, motive (.setBrightness level))
    (createChar : ∀ location glyph, motive (.createChar location glyph)) (write : ∀ byte, motive (.write byte))
    (i : Instr) : motive i := by
  cases i with
  | construct a b c => exact construct a b c
  | begin cols rows => exact begin cols rows
  | clear => exact clear
  | home => exact home
  | display => exact toggle _ _ rfl
  | noDisplay => exact toggle _ _ rfl
  | cursor => exact toggle _ _ rfl
  | noCursor => exact toggle _ _ rfl
  | blink => exact toggle _ _ rfl
  | noBlink => exact toggle _ _ rfl
  | setCursor col row => exact setCursor col row
  | setBrightness level => exact setBrightness level
  | createChar location glyph => exact createChar location glyph
  | write byte => exact write byte
  | _ => exact inner _ rfl

/-- Every host operation but `construct` passes through `accept`. -/
theorem plan_hostOp {i : Instr} (host : i.isHostOp = true) (other : ∀ a b c, i ≠ .construct a b c) (s : State) :
    ∃ job, plan i s = s.accept job := by
  induction i using Instr.byKind with
  | inner i inner => rw [inner] at host; cases host
  | toggle i f change => exact ⟨_, plan_toggle change s⟩
  | construct a b c => exact absurd rfl (other a b c)
  | begin cols rows => exact ⟨_, rfl⟩
  | clear => exact ⟨_, rfl⟩
  | home => exact ⟨_, rfl⟩
  | setCursor col row => exact ⟨_, rfl⟩
  | setBrightness level => exact ⟨_, rfl⟩
  | createChar location glyph => exact ⟨_, rfl⟩
  | write byte => exact ⟨_, rfl⟩

/-! ## The states the operations leave -/

/-- The state of a block just constructed, after its three `Cfg` events (42_init.md R85). -/
def State.constructed (s : State) (a b c : LineId) : State :=
  { s.newInstance a b c with trace := [.cfg .sck, .cfg .stb, .cfg .sda] }

/-- The state after `begin`: the register writes, then the five steps (42_init.md R86). -/
def State.broughtUp (s : State) (rows : Byte) : State :=
  let P := s.cfg
  let r := s.initRegisters rows
  (((((((((r.waited P.tPowerup).sent (frameWord P.modeCmd P.opClear)).waited P.tClear).sent
    (frameWord P.modeCmd (P.opCtrl ||| P.ctrlInit))).waited P.tCmd).sent
    (frameWord P.modeCmd (P.opEntry ||| P.entryInit))).waited P.tCmd).sent
    (frameWord P.modeCmd (P.opFunc ||| r.func))).waited P.tCmd)

section
variable (s : State) (rows : Byte)

@[simp] theorem State.broughtUp_cfg : (s.broughtUp rows).cfg = s.cfg := by simp [State.broughtUp]
@[simp] theorem State.broughtUp_pins : (s.broughtUp rows).pins = s.pins := by simp [State.broughtUp]
@[simp] theorem State.broughtUp_func : (s.broughtUp rows).func = withLineCount s.cfg rows s.func := by
  simp [State.broughtUp]
@[simp] theorem State.broughtUp_ctrl : (s.broughtUp rows).ctrl = .val s.cfg.ctrlInit := by simp [State.broughtUp]
@[simp] theorem State.broughtUp_entry : (s.broughtUp rows).entry = .val s.cfg.entryInit := by simp [State.broughtUp]
@[simp] theorem State.broughtUp_lines : (s.broughtUp rows).lines = .val rows := by simp [State.broughtUp]
@[simp] theorem State.broughtUp_fr : (s.broughtUp rows).fr = none := by simp [State.broughtUp]
@[simp] theorem State.broughtUp_bitidx : (s.broughtUp rows).bitidx = none := by simp [State.broughtUp]
@[simp] theorem State.broughtUp_seq : (s.broughtUp rows).seq = s.seq := by simp [State.broughtUp]
@[simp] theorem State.broughtUp_returned : (s.broughtUp rows).returned = s.returned := by simp [State.broughtUp]
@[simp] theorem State.broughtUp_program : (s.broughtUp rows).program = s.program := by simp [State.broughtUp]
@[simp] theorem State.broughtUp_stepwise : (s.broughtUp rows).stepwise = s.stepwise := by simp [State.broughtUp]
@[simp] theorem State.broughtUp_fresh : (s.broughtUp rows).fresh = s.fresh := by simp [State.broughtUp]

end

/-- The state after a toggle has set CTRL to `v` (43_toggles.md R90). -/
def State.toggled (s : State) (v : Byte) : State :=
  ({ s with ctrl := .val v } : State).sent (frameWord s.cfg.modeCmd (s.cfg.opCtrl ||| v))

/-- The state after `setBrightness` has set FUNC to `v` (45_brightness.md R101). -/
def State.brightened (s : State) (v : Byte) : State :=
  ({ s with func := v } : State).sent (frameWord s.cfg.modeCmd (s.cfg.opFunc ||| v))

/-- The frames of `createChar` before its tail: the address and the bytes (46_custom_glyph.md R105). -/
def glyphWords (P : Params) (location : Byte) (glyph : List Byte) : List FrameWord :=
  frameWord P.modeCmd (cgramPayload P location) :: glyph.map (frameWord P.modeData)

/-- The last frame of `createChar` (46_custom_glyph.md R107). -/
def tailWord (P : Params) : FrameWord := frameWord P.modeCmd (tailPayload P)

/-! ## Accepted instructions -/

/-- An inner instruction sends its word (40_transport.md R70, R73; 41_command_frames.md R75 to R82). -/
theorem exec_inner {i : Instr} {s : State} {w : FrameWord} (h : s.Constructed) (word : instrWord s.cfg i = some w) :
    exec i s = .next (s.sent w) := by
  obtain ⟨c, planned, coded⟩ := plan_inner (isHostOp_of_instrWord word) s
  cases word.symm.trans coded
  rw [exec_eq_complete, planned, State.internal_constructed h]
  simp

theorem exec_construct {s : State} {a b c : LineId} (idle : s.seq = []) (distinct : pinsDistinct a b c = true) :
    exec (.construct a b c) s = .next (s.constructed a b c) := by
  rw [exec_eq_complete, plan, planConstruct, idle]
  simp [distinct, State.emit, State.constructed, State.newInstance]

theorem exec_begin {s : State} (h : s.Ready) (cols rows : Byte) :
    exec (.begin cols rows) s = .next (s.broughtUp rows) := by
  rw [exec_eq_complete, plan, planBegin, State.accept_ready h]
  simp [beginSteps, callWord, registerPayload, commandPayload, State.broughtUp]

theorem exec_toggle {i : Instr} {f : Params → Byte → Byte} (change : toggleChange i = some f) {s : State}
    (h : s.Ready) {c : Byte} (written : s.ctrl = .val c) : exec i s = .next (s.toggled (f s.cfg c)) := by
  rw [exec_eq_complete, plan_toggle change, State.toggle_ready h written]
  simp [callWord, registerPayload, commandPayload, State.toggled]

theorem exec_setCursor {s : State} (h : s.Ready) (col row : Byte) :
    exec (.setCursor col row) s = .next (s.sent (frameWord s.cfg.modeCmd (setCursorPayload s.cfg col row))) := by
  rw [exec_eq_complete, plan, planSetCursor, State.accept_ready h]
  simp [callWord]

theorem createCharSteps_eq_calls (P : Params) (location : Byte) (glyph : List Byte) :
    createCharSteps P location glyph =
      (Call.command (cgramPayload P location) ::
        (glyph.map Call.data ++ [Call.command (tailPayload P)])).map .call := by
  simp [createCharSteps]

theorem exec_createChar {s : State} (h : s.Ready) (location : Byte) {glyph : List Byte} (eight : glyph.length = 8) :
    exec (.createChar location glyph) s = .next (s.sentAll (glyphWords s.cfg location glyph ++ [tailWord s.cfg])) := by
  rw [exec_eq_complete, plan, planCreateChar, State.accept_ready h,
    if_pos (show glyph.length = Config.glyphRows from eight), complete_ok, createCharSteps_eq_calls, State.run_calls]
  simp [glyphWords, tailWord, callWord, Function.comp_def]

theorem exec_write {s : State} (h : s.Ready) (byte : Byte) :
    exec (.write byte) s =
      .next { s.sent (frameWord s.cfg.modeData byte) with returned := s.returned ++ [1] } := by
  rw [exec_eq_complete, plan, planWrite, State.accept_ready h]
  simp [callWord]

/-! ## Every answer -/

/-- The state an instruction answers, with what it takes to answer it beside bound pins and an idle sequencer
(10_state.md, section 10; 60_exceptions.md R118). -/
inductive Answers (s : State) : Instr → State → Prop
  | inner {i : Instr} {w : FrameWord} (word : instrWord s.cfg i = some w) : Answers s i (s.sent w)
  | construct {a b c : LineId} (distinct : pinsDistinct a b c = true) :
      Answers s (.construct a b c) (s.constructed a b c)
  | begin (cols rows : Byte) : Answers s (.begin cols rows) (s.broughtUp rows)
  | clear : Answers s .clear ((s.sent (frameWord s.cfg.modeCmd s.cfg.opClear)).waited s.cfg.tClear)
  | home : Answers s .home (s.sent (frameWord s.cfg.modeCmd s.cfg.opHome))
  | toggle {i : Instr} {f : Params → Byte → Byte} {c : Byte} (change : toggleChange i = some f)
      (written : s.ctrl = .val c) : Answers s i (s.toggled (f s.cfg c))
  | setCursor (col row : Byte) :
      Answers s (.setCursor col row) (s.sent (frameWord s.cfg.modeCmd (setCursorPayload s.cfg col row)))
  | setBrightness (level : Byte) :
      Answers s (.setBrightness level) (s.brightened (withBrightness s.cfg (brightnessCode s.cfg level) s.func))
  | createChar (location : Byte) {glyph : List Byte} (eight : glyph.length = 8) :
      Answers s (.createChar location glyph) (s.sentAll (glyphWords s.cfg location glyph ++ [tailWord s.cfg]))
  | write (byte : Byte) :
      Answers s (.write byte) { s.sent (frameWord s.cfg.modeData byte) with returned := s.returned ++ [1] }

/-- Where `exec` answers one state, the next state it answers is that one. -/
theorem next_unique {i : Instr} {s t u : State} (h : exec i s = .next t) (known : exec i s = .next u) : u = t := by
  cases known.symm.trans h
  rfl

/-- If an instruction answers a next state, it is the one named in `Answers`, under the conditions named there. -/
theorem answers_of_exec {i : Instr} {s t : State} (h : exec i s = .next t) : Answers s i t := by
  obtain ⟨j, planned, -⟩ := exec_next h
  induction i using Instr.byKind with
  | inner i inner =>
    obtain ⟨c, called, word⟩ := plan_inner inner s
    obtain ⟨made, -⟩ := State.internal_ok (called ▸ planned)
    exact next_unique h (exec_inner made word) ▸ .inner word
  | toggle i f change =>
    obtain ⟨ready, c, written, -⟩ := State.toggle_ok (plan_toggle change s ▸ planned)
    exact next_unique h (exec_toggle change ready written) ▸ .toggle change written
  | construct a b c =>
    rw [plan, planConstruct] at planned
    split at planned
    · cases planned
    · next idle =>
      split at planned
      · next distinct => exact next_unique h (exec_construct idle distinct) ▸ .construct distinct
      · cases planned
  | begin cols rows => exact next_unique h (exec_begin (ready_of_exec_next rfl h) cols rows) ▸ .begin cols rows
  | clear => exact next_unique h (exec_clear (ready_of_exec_next rfl h)) ▸ .clear
  | home => exact next_unique h (exec_home (ready_of_exec_next rfl h)) ▸ .home
  | setCursor col row =>
    exact next_unique h (exec_setCursor (ready_of_exec_next rfl h) col row) ▸ .setCursor col row
  | setBrightness level =>
    exact next_unique h (exec_setBrightness (ready_of_exec_next rfl h) level) ▸ .setBrightness level
  | createChar location glyph =>
    obtain ⟨ready, planned⟩ := State.accept_ok planned
    split at planned
    · next eight => exact next_unique h (exec_createChar ready location eight) ▸ .createChar location eight
    · cases planned
  | write byte => exact next_unique h (exec_write (ready_of_exec_next rfl h) byte) ▸ .write byte

end Sys2Proof.Machine
end

section
/-!
PROOFS. The statements that say what one instruction answers, and when it is refused: the frame rows, the primitives
and the host operations one by one, the closed list of refusals (60_exceptions.md R118), and that no outcome depends
on the line levels or on the transient registers (10_state.md R12, R18, R19).
-/

namespace Sys2Proof.Machine

/-! ## The inner instructions -/

/-- Settles O2: each row is an inner instruction with the word its encoding has. -/
theorem frameRowsSendTheirFrame : Obligations.FrameRowsSendTheirFrame := by
  unfold Obligations.FrameRowsSendTheirFrame
  intro s made
  exact ⟨exec_inner made rfl, exec_inner made rfl, fun _ => exec_inner made rfl, fun _ => exec_inner made rfl,
    fun _ => exec_inner made rfl, fun _ => exec_inner made rfl, fun _ => exec_inner made rfl,
    fun _ => exec_inner made rfl⟩

/-- Settles O3: each primitive is an inner instruction too. -/
theorem internalPrimitivesSendTheirFrame : Obligations.InternalPrimitivesSendTheirFrame := by
  unfold Obligations.InternalPrimitivesSendTheirFrame
  intro s made
  exact ⟨fun _ _ => exec_inner made rfl, fun _ => exec_inner made rfl, fun _ => exec_inner made rfl⟩

/-! ## `construct` and reset -/

theorem pinsDistinct_iff {a b c : LineId} : pinsDistinct a b c = true ↔ a ≠ b ∧ a ≠ c ∧ b ≠ c := by
  simp [pinsDistinct, and_assoc]

/-- Settles O12: every field is read off `constructed`. -/
theorem constructMakesANewInstance : Obligations.ConstructMakesANewInstance := by
  unfold Obligations.ConstructMakesANewInstance
  intro s a b c idle ab ac bc
  exact ⟨s.constructed a b c, exec_construct idle (pinsDistinct_iff.mpr ⟨ab, ac, bc⟩), rfl, rfl, rfl, rfl, rfl, rfl,
    rfl, rfl, idle, rfl, rfl, rfl, rfl⟩

/-- Settles O13: two equal identifiers fail the check of the plan. -/
theorem constructRefusesEqualPins : Obligations.ConstructRefusesEqualPins := by
  unfold Obligations.ConstructRefusesEqualPins
  intro s a b c idle equal
  have notDistinct : ¬ pinsDistinct a b c = true := by rw [pinsDistinct_iff]; tauto
  rw [exec_eq_complete, plan, planConstruct, idle]
  simp [notDistinct]

/-- A construction keeps five fields of the old state and writes all others (42_init.md R85). -/
theorem newInstance_congr {s s' : State} (cfg : s.cfg = s'.cfg) (seq : s.seq = s'.seq)
    (program : s.program = s'.program) (stepwise : s.stepwise = s'.stepwise) (fresh : s.fresh = s'.fresh)
    (a b c : LineId) : s.newInstance a b c = s'.newInstance a b c := by
  simp only [State.newInstance, cfg, seq, program, stepwise, fresh]

/-- Settles O14: both operations begin from the same `newInstance`. -/
theorem constructForgetsTheOldInstance : Obligations.ConstructForgetsTheOldInstance := by
  unfold Obligations.ConstructForgetsTheOldInstance
  intro s s' a b c idle idle' cfg program stepwise fresh
  have same := newInstance_congr cfg (idle.trans idle'.symm) program stepwise fresh a b c
  rw [exec_eq_complete, exec_eq_complete, plan, plan, planConstruct, planConstruct, idle, idle', same]

/-- Settles O15: the state after reset is the first one constructed. -/
theorem resetIsConstruct : Obligations.ResetIsConstruct :=
  exec_construct (s := State.noInstance) rfl (by decide)

/-- Settles O16, field by field. -/
theorem resetValues : Obligations.ResetValues :=
  ⟨rfl, rfl, rfl, rfl, rfl, rfl, rfl, rfl, Option.some_ne_none _⟩

/-! ## The other host operations -/

/-- Settles O17: `broughtUp` is the state written out in the statement. -/
theorem beginRunsTheBringUp : Obligations.BeginRunsTheBringUp := by
  unfold Obligations.BeginRunsTheBringUp
  intro s cols rows made idle
  exact exec_begin ⟨made, idle⟩ cols rows

/-- Settles O20: the six are toggles, each with its own change of CTRL. -/
theorem togglesChangeTheirBitAndSendTheRegister : Obligations.TogglesChangeTheirBitAndSendTheRegister := by
  unfold Obligations.TogglesChangeTheirBitAndSendTheRegister
  intro s c made idle written
  have ready : s.Ready := ⟨made, idle⟩
  exact ⟨exec_toggle (i := .display) rfl ready written, exec_toggle (i := .noDisplay) rfl ready written,
    exec_toggle (i := .cursor) rfl ready written, exec_toggle (i := .noCursor) rfl ready written,
    exec_toggle (i := .blink) rfl ready written, exec_toggle (i := .noBlink) rfl ready written⟩

/-- Settles O21: a toggle's plan reads CTRL. -/
theorem togglesRefusedBeforeBegin : Obligations.TogglesRefusedBeforeBegin := by
  unfold Obligations.TogglesRefusedBeforeBegin
  intro s i made idle unwritten listed
  obtain ⟨f, change⟩ := mem_toggles_iff.mp listed
  rw [exec_eq_complete, plan_toggle change, State.toggle, State.accept_ready ⟨made, idle⟩, unwritten]
  rfl

/-- The address sum of `setCursor`, the row offset counted for every row above zero (30_encoding.md R49). -/
theorem ddramAddress_eq (P : Params) (col row : Byte) :
    ddramAddress P col row = col.toNat + if row.toNat > 0 then P.row1Offset.toNat else 0 := by
  have zero : row = 0 ↔ row.toNat = 0 := BitVec.toNat_inj.symm
  rw [ddramAddress, rowOffset]
  by_cases top : row.toNat = 0
  · rw [if_pos (zero.mpr top), if_neg (by omega)]
    rfl
  · rw [if_neg (mt zero.mp top), if_pos (by omega)]

/-- Settles O25, with the address sum written out. -/
theorem setCursorSendsTheAddress : Obligations.SetCursorSendsTheAddress := by
  unfold Obligations.SetCursorSendsTheAddress
  intro s col row made idle
  rw [exec_setCursor ⟨made, idle⟩, setCursorPayload, ddramAddress_eq]

/-- FUNC after `setBrightness`, level by level (45_brightness.md R101, R102, R104). -/
theorem withBrightness_level (P : Params) (level func : Byte) :
    withBrightness P (brightnessCode P level) func =
      let base := if P.brightnessMasking then func &&& ~~~P.brtMask else func
      if level.toNat = 100 then base ||| P.brtCode100
      else if level.toNat = 75 then base ||| P.brtCode75
      else if level.toNat = 50 then base ||| P.brtCode50
      else if level.toNat = 25 then base ||| P.brtCode25
      else func := by
  have isLevel : ∀ v : Byte, level = v ↔ level.toNat = v.toNat := fun _ => BitVec.toNat_inj.symm
  simp only [brightnessCode, isLevel, apply_ite fun code => withBrightness P code func]
  rfl

/-- Settles O27, with the levels written out. -/
theorem setBrightnessSendsTheRegister : Obligations.SetBrightnessSendsTheRegister := by
  unfold Obligations.SetBrightnessSendsTheRegister
  intro s level made idle
  rw [exec_setBrightness ⟨made, idle⟩, withBrightness_level]

/-- The frames of `createChar` one by one: the address, each byte in index order, the tail (46_custom_glyph.md R105). -/
theorem State.sentAll_glyphWords (s : State) (location : Byte) (glyph : List Byte) :
    s.sentAll (glyphWords s.cfg location glyph ++ [tailWord s.cfg]) =
      (glyph.foldl (fun u v => u.sent (frameWord s.cfg.modeData v))
        (s.sent (frameWord s.cfg.modeCmd (cgramPayload s.cfg location)))).sent (tailWord s.cfg) := by
  simp only [State.sentAll, glyphWords, List.foldl_append, List.foldl_cons, List.foldl_nil, List.foldl_map]

/-- Settles O32: the bytes' frames, one by one, stand between the address and the tail. -/
theorem createCharSendsTenFrames : Obligations.CreateCharSendsTenFrames := by
  unfold Obligations.CreateCharSendsTenFrames
  intro s location glyph made idle eight
  rw [exec_createChar ⟨made, idle⟩ location eight, State.sentAll_glyphWords]
  rfl

/-- Settles O34: a glyph of another length fails the check of the plan. -/
theorem glyphLengthRefused : Obligations.GlyphLengthRefused := by
  unfold Obligations.GlyphLengthRefused
  intro s location glyph made idle other
  rw [exec_eq_complete, plan, planCreateChar, State.accept_ready ⟨made, idle⟩,
    if_neg (show ¬ glyph.length = Config.glyphRows from other), complete_error]

/-- Settles O35: the plan is the data frame and the return. -/
theorem writeSendsTheByteAndReturnsOne : Obligations.WriteSendsTheByteAndReturnsOne :=
  fun _ byte made idle => exec_write ⟨made, idle⟩ byte

/-! ## Refusals -/

/-- Settles O38: every plan but that of `construct` asks for bound pins, through `accept` or through `internal`. -/
theorem nothingRunsWithoutAnInstance : Obligations.NothingRunsWithoutAnInstance := by
  unfold Obligations.NothingRunsWithoutAnInstance
  intro i s none other
  rw [exec_eq_complete]
  cases host : i.isHostOp with
  | true =>
    obtain ⟨job, planned⟩ := plan_hostOp host other s
    rw [planned, State.accept_noInstance none, complete_error]
  | false =>
    obtain ⟨c, planned, -⟩ := plan_inner host s
    rw [planned, State.internal_noInstance none, complete_error]

/-- Settles O39: `construct` asks for an idle sequencer itself, the others through `accept`. -/
theorem hostOperationsDoNotReenter : Obligations.HostOperationsDoNotReenter := by
  unfold Obligations.HostOperationsDoNotReenter
  intro i s host made running
  rw [exec_eq_complete]
  by_cases built : ∃ a b c, i = .construct a b c
  · obtain ⟨a, b, c, rfl⟩ := built
    obtain ⟨x, xs, seq⟩ := List.exists_cons_of_ne_nil running
    rw [plan, planConstruct, seq, complete_error]
  · push Not at built
    obtain ⟨job, planned⟩ := plan_hostOp host built s
    rw [planned, State.accept_running made running, complete_error]

theorem isHostOp_of_toggleChange {i : Instr} {f : Params → Byte → Byte} (change : toggleChange i = some f) :
    i.isHostOp = true := by
  cases i <;> cases change <;> rfl

/-- What an instruction that answers has met of the three conditions of 60_exceptions.md R118. -/
theorem Answers.conditions {s t : State} {i : Instr} (h : Answers s i t) :
    (i ∈ [Instr.display, .noDisplay, .cursor, .noCursor, .blink, .noBlink] → s.ctrl ≠ .unwritten) ∧
    (∀ a b c, i = .construct a b c → a ≠ b ∧ a ≠ c ∧ b ≠ c) ∧
    (∀ l g, i = .createChar l g → g.length = 8) := by
  cases h with
  | inner word =>
    have inner := isHostOp_of_instrWord word
    refine ⟨fun listed => ?_, ?_, ?_⟩
    · obtain ⟨f, change⟩ := mem_toggles_iff.mp listed
      exact absurd (isHostOp_of_toggleChange change) (by simp [inner])
    · rintro a b c rfl
      cases inner
    · rintro l g rfl
      cases inner
  | toggle change written =>
    refine ⟨fun _ => by simp [written], ?_, ?_⟩
    · rintro a b c rfl
      cases change
    · rintro l g rfl
      cases change
  | construct distinct =>
    refine ⟨by simp, fun a b c same => ?_, by simp⟩
    cases same
    exact pinsDistinct_iff.mp distinct
  | createChar location eight =>
    refine ⟨by simp, by simp, fun l g same => ?_⟩
    cases same
    exact eight
  | _ => simp

/-- Settles O40: forwards the conditions are those of `Answers`; backwards each kind completes. -/
theorem noOtherRequestIsRefused : Obligations.NoOtherRequestIsRefused := by
  unfold Obligations.NoOtherRequestIsRefused
  intro i s made idle
  have ready : s.Ready := ⟨made, idle⟩
  refine ⟨fun ⟨t, h⟩ => (answers_of_exec h).conditions, fun ⟨written, distinct, eight⟩ => ?_⟩
  induction i using Instr.byKind with
  | inner i inner =>
    obtain ⟨c, -, word⟩ := plan_inner inner s
    exact ⟨_, exec_inner made word⟩
  | toggle i f change =>
    cases ctrl : s.ctrl with
    | unwritten => exact absurd ctrl (written (mem_toggles_iff.mpr ⟨f, change⟩))
    | val c => exact ⟨_, exec_toggle change ready ctrl⟩
  | construct a b c => exact ⟨_, exec_construct idle (pinsDistinct_iff.mpr (distinct a b c rfl))⟩
  | begin cols rows => exact ⟨_, exec_begin ready cols rows⟩
  | clear => exact ⟨_, exec_clear ready⟩
  | home => exact ⟨_, exec_home ready⟩
  | setCursor col row => exact ⟨_, exec_setCursor ready col row⟩
  | setBrightness level => exact ⟨_, exec_setBrightness ready level⟩
  | createChar location glyph => exact ⟨_, exec_createChar ready location (eight location glyph rfl)⟩
  | write byte => exact ⟨_, exec_write ready byte⟩

/-! ## The line levels, FR and BITIDX are read by nothing -/

/-- The state with other line levels and transient registers. -/
def State.withTransients (s : State) (lv : Levels) (f : Option FrameWord) (b : Option (BitVec 4)) : State :=
  { s with lvl := lv, fr := f, bitidx := b }

section
variable (s base : State) (lv : Levels) (f : Option FrameWord) (b : Option (BitVec 4))

/-- A sequence that begins with a frame forgets them: the frame drives all three lines and both registers. -/
theorem State.run_call_withTransients (c : Call) (xs : List SeqStep) :
    (base.withTransients lv f b).run (.call c :: xs) = base.run (.call c :: xs) := by
  rw [State.run_cons, State.run_cons, State.seqStep_call, State.seqStep_call]
  rfl

/-- So does one that waits before its first frame. -/
theorem State.run_wait_call_withTransients (n : Nat) (c : Call) (xs : List SeqStep) :
    (base.withTransients lv f b).run (.prim (.wait n) :: .call c :: xs) =
      base.run (.prim (.wait n) :: .call c :: xs) := by
  have waits : (base.withTransients lv f b).waited n = (base.waited n).withTransients lv f b := rfl
  rw [State.run_cons _ (.prim (.wait n)), State.seqStep_wait, waits, State.run_call_withTransients,
    State.run_cons _ (.prim (.wait n)), State.seqStep_wait]

/-- Acceptance does not read them, so an operation whose run forgets them has one outcome (60_exceptions.md R118). -/
theorem complete_accept_withTransients {steps : List SeqStep}
    (forgets : (base.withTransients lv f b).run steps = base.run steps) :
    complete ((s.withTransients lv f b).accept (.ok ⟨base.withTransients lv f b, steps⟩)) =
      complete (s.accept (.ok ⟨base, steps⟩)) := by
  have same : ∀ job, (s.withTransients lv f b).accept job = s.accept job := fun _ => rfl
  rw [same]
  unfold State.accept
  split
  · rfl
  · rfl
  · rw [complete_ok, complete_ok, forgets]

/-- Every operation's sequence begins with a frame, but for the first wait of `begin` and the fresh state of
`construct`. -/
theorem exec_withTransients (i : Instr) : exec i (s.withTransients lv f b) = exec i s := by
  have call (base : State) (c : Call) (xs : List SeqStep) := complete_accept_withTransients s base lv f b
    (State.run_call_withTransients base lv f b c xs)
  rw [exec_eq_complete, exec_eq_complete]
  induction i using Instr.byKind with
  | inner i inner =>
    by_cases made : s.Constructed
    · obtain ⟨c, -, word⟩ := plan_inner inner s
      rw [← exec_eq_complete, ← exec_eq_complete, exec_inner made word,
        exec_inner (s := s.withTransients lv f b) made word]
      rfl
    · obtain ⟨c, planned, -⟩ := plan_inner inner s
      obtain ⟨c', planned', -⟩ := plan_inner inner (s.withTransients lv f b)
      have none : s.pins = none := by simpa [State.Constructed] using made
      rw [planned, planned', State.internal_noInstance none,
        State.internal_noInstance (s := s.withTransients lv f b) none]
  | toggle i change' change =>
    rw [plan_toggle change, plan_toggle change]
    cases written : s.ctrl with
    | unwritten =>
      have ctrl' : (s.withTransients lv f b).ctrl = .unwritten := written
      rw [State.toggle, State.toggle, written, ctrl']
      rfl
    | val v =>
      have ctrl' : (s.withTransients lv f b).ctrl = .val v := written
      rw [State.toggle, State.toggle, written, ctrl']
      exact call { s with ctrl := .val (change' s.cfg v) } _ []
  | construct a b c => rfl
  | begin cols rows =>
    exact complete_accept_withTransients s (s.initRegisters rows) lv f b
      (State.run_wait_call_withTransients _ lv f b _ _ _)
  | clear => exact call s _ _
  | home => exact call s _ _
  | setCursor col row => exact call s _ _
  | setBrightness level =>
    exact call { s with func := withBrightness s.cfg (brightnessCode s.cfg level) s.func } _ _
  | createChar location glyph =>
    by_cases eight : glyph.length = Config.glyphRows
    · rw [plan, plan, planCreateChar, planCreateChar, if_pos eight, if_pos eight]
      exact call s _ _
    · rw [plan, plan, planCreateChar, planCreateChar, if_neg eight, if_neg eight]
      rfl
  | write byte => exact call s _ _

end

/-- Settles O11: what is replaced is forgotten by every plan. -/
theorem levelsAndTransientsAreNeverRead : Obligations.LevelsAndTransientsAreNeverRead :=
  fun i s lv f b => exec_withTransients s lv f b i

end Sys2Proof.Machine
end

section
/-!
PROOFS. A frame on the lines (40_transport.md): how many events of each kind it has (R70), when each comes
(70_reset_and_hazards.md, section 4), what a receiver samples (R74), and which line may move when (R65 to R69).
-/

namespace Sys2Proof.Machine

/-- If `transmit` answers a state, it is the one with its frame sent (40_transport.md R70). -/
theorem exec_transmit_next {s t : State} {m p : Byte} (h : exec (.transmit m p) s = .next t) :
    t = s.sent (frameWord m p) := by
  cases answers_of_exec h with
  | inner word => cases word; rfl
  | toggle change => cases change

/-! ## Counting events -/

/-- A kind of event that every bit has `n` times. -/
theorem countP_bitEvents {kind : Event → Bool} {P : Params} {n : Nat} (each : ∀ b, (bitEvents P b).countP kind = n)
    (bits : List Bool) : (bits.flatMap (bitEvents P)).countP kind = n * bits.length := by
  induction bits with
  | nil => rfl
  | cons b bits ih => rw [List.flatMap_cons, List.countP_append, each, ih, List.length_cons]; ring

/-- The events of a kind in a frame: those of its opening, of its sixteen bits, and of its end (40_transport.md R70). -/
theorem countP_frameEvents {kind : Event → Bool} {P : Params} {n : Nat} (each : ∀ b, (bitEvents P b).countP kind = n)
    (w : FrameWord) :
    (frameEvents P w).countP kind =
      [.set .stb false, .wait P.tStb, .set .sck false].countP kind + n * 16 +
        [.set .sck true, .set .stb true, .wait P.tStb].countP kind := by
  rw [frameEvents, List.countP_append, List.countP_append, countP_bitEvents each, bitsDown_length]

/-- Settles O4, kind by kind. -/
theorem frameEventCounts : Obligations.FrameEventCounts := by
  unfold Obligations.FrameEventCounts
  intro s t m p h
  obtain rfl := exec_transmit_next h
  refine ⟨_, rfl, frameEvents_length .., ?_, ?_, ?_, ?_, unitsOf_frameEvents ..⟩
  · exact countP_frameEvents (n := 2) (fun _ => rfl) _
  · exact countP_frameEvents (n := 2) (fun _ => rfl) _
  · exact countP_frameEvents (n := 0) (fun _ => rfl) _
  · exact countP_frameEvents (n := 1) (fun _ => rfl) _

/-! ## Times -/

theorem timeBefore_append_of_le {a : List Event} {n : Nat} (h : n ≤ a.length) (b : List Event) :
    timeBefore (a ++ b) n = timeBefore a n := by
  rw [timeBefore, List.take_append_of_le_length h, timeBefore]

theorem timeBefore_append_add (a b : List Event) (n : Nat) :
    timeBefore (a ++ b) (a.length + n) = unitsOf a + timeBefore b n := by
  rw [timeBefore, List.take_length_add_append, unitsOf_append, timeBefore]

/-- The level of bit `k`, from the first, and its time. -/
theorem frame_dataBit (P : Params) (w : FrameWord) {k : Nat} (hk : k < 16) :
    (frameEvents P w)[3 + 5 * k]? = some (.set .sda (w.getLsbD (15 - k))) ∧
    timeBefore (frameEvents P w) (3 + 5 * k) = P.tStb + k * (2 * P.tHalf) := by
  obtain ⟨event, time⟩ := frameEvents_bit P w k 0 (by omega) hk
  exact ⟨event, time⟩

/-- The rising edge of pulse `k`, from the first, and its time. -/
theorem frame_risingEdge (P : Params) (w : FrameWord) {k : Nat} (hk : k < 16) :
    (frameEvents P w)[5 + 5 * k]? = some (.set .sck true) ∧
    timeBefore (frameEvents P w) (5 + 5 * k) = P.tStb + P.tHalf + k * (2 * P.tHalf) := by
  obtain ⟨event, time⟩ := frameEvents_bit P w k 2 (by omega) hk
  rw [show 5 + 5 * k = 3 + 5 * k + 2 by omega]
  refine ⟨event, time.trans ?_⟩
  simp [bitEvents]
  omega

/-- The falling edge of pulse `k`, from the first, and its time. -/
theorem frame_fallingEdge (P : Params) (w : FrameWord) {k : Nat} (hk : k < 16) :
    (frameEvents P w)[7 + 5 * k]? = some (.set .sck false) ∧
    timeBefore (frameEvents P w) (7 + 5 * k) = P.tStb + 2 * P.tHalf + k * (2 * P.tHalf) := by
  obtain ⟨event, time⟩ := frameEvents_bit P w k 4 (by omega) hk
  rw [show 7 + 5 * k = 3 + 5 * k + 4 by omega]
  refine ⟨event, time.trans ?_⟩
  simp [bitEvents]
  omega

/-- The terminal clock raise and the strobe's rise, and the times of both and of the frame's end. -/
theorem frame_end (P : Params) (w : FrameWord) :
    (frameEvents P w)[83]? = some (.set .sck true) ∧ (frameEvents P w)[84]? = some (.set .stb true) ∧
    timeBefore (frameEvents P w) 83 = P.tStb + 32 * P.tHalf ∧
    timeBefore (frameEvents P w) 84 = P.tStb + 32 * P.tHalf ∧
    timeBefore (frameEvents P w) 86 = 2 * P.tStb + 32 * P.tHalf := by
  obtain ⟨es, split, length, units⟩ := frameEvents_end P w
  have time (n : Nat) := timeBefore_append_add es [.set .sck true, .set .stb true, .wait P.tStb] n
  rw [length, units] at time
  rw [split]
  refine ⟨?_, ?_, time 0, time 1, (time 3).trans ?_⟩
  · rw [List.getElem?_append_right (by omega), length]
    rfl
  · rw [List.getElem?_append_right (by omega), length]
    rfl
  · simp [timeBefore]
    omega

/-- Settles O6: the three edges of each bit and the end of the frame. -/
theorem frameTimes : Obligations.FrameTimes := by
  unfold Obligations.FrameTimes
  intro s t m p h
  obtain rfl := exec_transmit_next h
  refine ⟨_, rfl, fun k hk => ?_, frame_end ..⟩
  obtain ⟨bit, bitTime⟩ := frame_dataBit s.cfg (frameWord m p) hk
  obtain ⟨rise, riseTime⟩ := frame_risingEdge s.cfg (frameWord m p) hk
  obtain ⟨fall, fallTime⟩ := frame_fallingEdge s.cfg (frameWord m p) hk
  exact ⟨bit, bitTime, rise, riseTime, fall, fallTime⟩

/-- Settles O7: the first edge is pulse 15 of the first frame, the other pulse 0 of the second. -/
theorem timeBetweenFrames : Obligations.TimeBetweenFrames := by
  unfold Obligations.TimeBetweenFrames
  intro s t u m p m' p' h h'
  obtain rfl := exec_transmit_next h
  obtain rfl := exec_transmit_next h'
  obtain ⟨last, lastTime⟩ := frame_risingEdge s.cfg (frameWord m p) (k := 15) (by omega)
  obtain ⟨first, firstTime⟩ := frame_risingEdge s.cfg (frameWord m' p') (k := 0) (by omega)
  have length := frameEvents_length s.cfg (frameWord m p)
  refine ⟨frameEvents s.cfg (frameWord m p) ++ frameEvents s.cfg (frameWord m' p'), by simp, ?_, ?_, ?_⟩
  · rw [List.getElem?_append_left (by omega)]
    exact last
  · rw [List.getElem?_append_right (by omega), length]
    exact first
  · have later := timeBefore_append_add (frameEvents s.cfg (frameWord m p)) (frameEvents s.cfg (frameWord m' p')) 5
    rw [length, firstTime, unitsOf_frameEvents] at later
    rw [later, timeBefore_append_of_le (by omega), lastTime]
    omega

/-! ## What a receiver samples -/

/-- A bit loop under a low strobe and from a low clock gives each of its levels as a sample, and leaves the last on
the data line. -/
theorem foldl_see_bitEvents (P : Params) (bits : List Bool) (r : Receiver) (strobe : r.lvl.stb = false)
    (clock : r.lvl.sck = false) :
    (bits.flatMap (bitEvents P)).foldl Receiver.see r =
      ⟨⟨false, false, bits.getLastD r.lvl.sda⟩, r.samples ++ bits⟩ := by
  induction bits generalizing r with
  | nil =>
    obtain ⟨⟨sck, stb, sda⟩, samples⟩ := r
    cases strobe
    cases clock
    simp
  | cons b bits ih =>
    have one : (bitEvents P b).foldl Receiver.see r = ⟨⟨false, false, b⟩, r.samples ++ [b]⟩ := by
      simp [bitEvents, Receiver.see, strobe, clock]
    rw [List.flatMap_cons, List.foldl_append, one, ih _ rfl rfl, List.getLastD_cons, List.append_assoc,
      List.singleton_append]

theorem getLastD_bitsDown (w : FrameWord) (b : Bool) : (bitsDown w).getLastD b = w.getLsbD 0 := by
  simp [bitsDown, List.range_succ]

/-- A frame gives its sixteen bits, and the last once more at the terminal clock raise (40_transport.md R74). -/
theorem samplesOf_frameEvents (lv : Levels) (P : Params) (w : FrameWord) :
    samplesOf lv (frameEvents P w) = bitsDown w ++ [w.getLsbD 0] := by
  rw [samplesOf, frameEvents, List.foldl_append, List.foldl_append, foldl_see_bitEvents _ _ _ rfl rfl,
    getLastD_bitsDown]
  simp [Receiver.see]

/-- Settles O8: the new events are those of the frame. -/
theorem samplesOfAFrame : Obligations.SamplesOfAFrame := by
  unfold Obligations.SamplesOfAFrame
  intro s t m p lv h
  obtain rfl := exec_transmit_next h
  exact ⟨_, rfl, samplesOf_frameEvents ..⟩

/-! ## The strobe -/

/-- Without a drive of the strobe its level stays. -/
theorem foldl_after_stb {es : List Event} (quiet : ∀ b, Event.set .stb b ∉ es) (lv : Levels) :
    (es.foldl Levels.after lv).stb = lv.stb := by
  induction es generalizing lv with
  | nil => rfl
  | cons e es ih =>
    have rest : ∀ b, Event.set .stb b ∉ es := fun b mem => quiet b (List.mem_cons_of_mem e mem)
    rw [List.foldl_cons, ih rest]
    cases e with
    | cfg line => rfl
    | wait n => rfl
    | set line level =>
      cases line with
      | sck => rfl
      | sda => rfl
      | stb => exact absurd List.mem_cons_self (quiet level)

/-- Between the strobe's fall and its rise a frame has 83 events, none of them on the strobe (40_transport.md R65,
R69). -/
theorem frameEvents_strobe (P : Params) (w : FrameWord) :
    ∃ inside, frameEvents P w = .set .stb false :: (inside ++ [.set .stb true, .wait P.tStb]) ∧
      inside.length = 83 ∧ ∀ b, Event.set .stb b ∉ inside := by
  refine ⟨[.wait P.tStb, .set .sck false] ++ (bitsDown w).flatMap (bitEvents P) ++ [.set .sck true], ?_, ?_, ?_⟩
  · simp [frameEvents]
  · rw [List.length_append, List.length_append, length_bitEvents, bitsDown_length]
    rfl
  · simp [bitEvents]

/-- The strobe is low after 1 to 84 events of a frame. -/
theorem strobe_low (P : Params) (w : FrameWord) (lv : Levels) {n : Nat} (lo : 1 ≤ n) (hi : n ≤ 84) :
    (((frameEvents P w).take n).foldl Levels.after lv).stb = false := by
  obtain ⟨inside, split, length, quiet⟩ := frameEvents_strobe P w
  obtain ⟨k, rfl⟩ := Nat.exists_eq_add_of_le' lo
  rw [split, List.take_succ_cons, List.take_append_of_le_length (by omega), List.foldl_cons,
    foldl_after_stb fun b mem => quiet b (List.mem_of_mem_take mem)]
  rfl

/-- The strobe is high after 85 events of a frame or more. -/
theorem strobe_high (P : Params) (w : FrameWord) (lv : Levels) {n : Nat} (lo : 85 ≤ n) :
    (((frameEvents P w).take n).foldl Levels.after lv).stb = true := by
  obtain ⟨inside, split, length, -⟩ := frameEvents_strobe P w
  obtain ⟨k, rfl⟩ := Nat.exists_eq_add_of_le' lo
  have upTo : k + 85 = inside.length + (k + 1) + 1 := by omega
  have tail : ∀ b, Event.set .stb b ∉ [Event.wait P.tStb].take k := fun b mem => by
    simpa using List.mem_of_mem_take mem
  rw [split, upTo, List.take_succ_cons, List.take_length_add_append, List.take_succ_cons, List.foldl_cons,
    List.foldl_append, List.foldl_cons, foldl_after_stb tail]
  rfl

/-! ## The data line -/

/-- Every drive of the data line in the events finds the clock low (40_transport.md R67; S2). -/
def DataUnderLowClock (lv : Levels) (es : List Event) : Prop :=
  ∀ n b, es[n]? = some (.set .sda b) → ((es.take n).foldl Levels.after lv).sck = false

theorem dataUnderLowClock_nil (lv : Levels) : DataUnderLowClock lv [] := by
  simp [DataUnderLowClock]

theorem dataUnderLowClock_cons {lv : Levels} {e : Event} {es : List Event}
    (first : ∀ b, e = .set .sda b → lv.sck = false) (rest : DataUnderLowClock (lv.after e) es) :
    DataUnderLowClock lv (e :: es)
  | 0, b, h => first b (by simpa using h)
  | n + 1, b, h => rest n b h

theorem dataUnderLowClock_append {lv : Levels} {a b : List Event} (left : DataUnderLowClock lv a)
    (right : DataUnderLowClock (a.foldl Levels.after lv) b) : DataUnderLowClock lv (a ++ b) := by
  intro n v h
  by_cases inside : n < a.length
  · rw [List.getElem?_append_left inside] at h
    rw [List.take_append_of_le_length (by omega)]
    exact left n v h
  · obtain ⟨k, rfl⟩ := Nat.exists_eq_add_of_le (Nat.le_of_not_lt inside)
    rw [List.getElem?_append_right (by omega), Nat.add_sub_cancel_left] at h
    rw [List.take_length_add_append, List.foldl_append]
    exact right k v h

/-- Events that do not drive the data line. -/
theorem dataUnderLowClock_of_quiet {lv : Levels} {es : List Event} (quiet : ∀ b, Event.set .sda b ∉ es) :
    DataUnderLowClock lv es :=
  fun _ b h => absurd (List.mem_of_getElem? h) (quiet b)

/-- A bit loop from a low clock: each bit is placed first and its pulse ends low (40_transport.md R67, R68). -/
theorem dataUnderLowClock_bitEvents (P : Params) (bits : List Bool) {lv : Levels} (clock : lv.sck = false) :
    DataUnderLowClock lv (bits.flatMap (bitEvents P)) := by
  induction bits generalizing lv with
  | nil => exact dataUnderLowClock_nil lv
  | cons b bits ih =>
    refine dataUnderLowClock_append (dataUnderLowClock_cons (fun _ _ => clock) ?_) (ih rfl)
    exact dataUnderLowClock_of_quiet (by simp)

theorem dataUnderLowClock_frameEvents (P : Params) (w : FrameWord) (lv : Levels) :
    DataUnderLowClock lv (frameEvents P w) := by
  refine dataUnderLowClock_append (dataUnderLowClock_append ?_ ?_) ?_
  · exact dataUnderLowClock_of_quiet (by simp)
  · exact dataUnderLowClock_bitEvents P (bitsDown w) rfl
  · exact dataUnderLowClock_of_quiet (by simp)

/-- Settles O9: the strobe by prefixes, the data line by the bit loop. -/
theorem strobeAndDataDiscipline : Obligations.StrobeAndDataDiscipline := by
  unfold Obligations.StrobeAndDataDiscipline
  intro s t m p lv h
  obtain rfl := exec_transmit_next h
  exact ⟨_, rfl, fun _ lo hi => strobe_low _ _ lv lo hi, fun _ lo => strobe_high _ _ lv lo,
    dataUnderLowClock_frameEvents _ _ lv⟩

/-! ## The frame list -/

/-- Settles O10: the state reached is the one with the frame sent. -/
theorem frameListGrowsByTheFrame : Obligations.FrameListGrowsByTheFrame := by
  unfold Obligations.FrameListGrowsByTheFrame
  intro s t m p h
  obtain rfl := exec_transmit_next h
  exact State.framesOf_sent s (frameWord m p)

end Sys2Proof.Machine
end

section
/-!
PROOFS. The registers (10_state.md, sections 4 and 10): what setting and clearing flags does to other fields, the laws
of the toggles (43_toggles.md), of brightness (45_brightness.md) and of repeated `begin` (42_init.md), which register
an instruction can write at all, and how long each takes (70_reset_and_hazards.md R148).
-/

namespace Sys2Proof

/-! ## Masks -/

/-- Two single-bit masks that differ are disjoint. -/
theorem Byte.and_eq_zero_of_isSingleBit {a b : Byte} (ha : a.isSingleBit) (hb : b.isSingleBit) (differ : a ≠ b) :
    a &&& b = 0 := by
  obtain ⟨k, hk, rfl⟩ := Byte.isSingleBit_iff.mp ha
  obtain ⟨l, hl, rfl⟩ := Byte.isSingleBit_iff.mp hb
  have shifts : ∀ k < 8, ∀ l < 8, 1#8 <<< k ≠ 1#8 <<< l → 1#8 <<< k &&& 1#8 <<< l = 0 := by decide
  exact shifts k hk l hl differ

section
variable (v m c : Byte)

theorem or_and_self_right : (v ||| m) &&& m = m := by
  ext i
  simp +contextual

theorem and_not_and_self : v &&& ~~~m &&& m = 0 := by
  ext i
  simp

variable {v m c} {n : Byte}

/-- Setting bits outside a field leaves it. -/
theorem or_and_of_disjoint (apart : m &&& n = 0) : (v ||| m) &&& n = v &&& n := by
  ext i hi
  have bit := congrArg (·.getLsbD i) apart
  simp [hi] at bit ⊢
  grind

/-- Clearing bits outside a field leaves it. -/
theorem and_not_and_of_disjoint (apart : m &&& n = 0) : v &&& ~~~m &&& n = v &&& n := by
  ext i hi
  have bit := congrArg (·.getLsbD i) apart
  simp [hi] at bit ⊢
  grind

/-- Setting bits of a field adds them to it. -/
theorem or_and_of_named (named : c &&& ~~~m = 0) : (v ||| c) &&& m = (v &&& m) ||| c := by
  ext i hi
  have bit := congrArg (·.getLsbD i) named
  simp [hi] at bit ⊢
  grind

end

end Sys2Proof

namespace Sys2Proof.Machine

/-! ## Toggles -/

/-- Settles O22: the three masks are disjoint, so each change leaves the other two bits. -/
theorem togglesAreIndependent : Obligations.TogglesAreIndependent := by
  unfold Obligations.TogglesAreIndependent
  intro s c valid made idle written
  obtain ⟨display, cursor, blink⟩ := valid.ctrlSingle
  obtain ⟨display_cursor, display_blink, cursor_blink⟩ := valid.ctrlDistinct
  have cursor_display := Byte.and_eq_zero_of_isSingleBit cursor display display_cursor.symm
  have blink_display := Byte.and_eq_zero_of_isSingleBit blink display display_blink.symm
  have cursor_blink := Byte.and_eq_zero_of_isSingleBit cursor blink cursor_blink
  have cursorOn := exec_toggle (i := .cursor) rfl ⟨made, idle⟩ written
  have blinkOn := exec_toggle (i := .blink) (s := s.toggled (c ||| s.cfg.ctrlCursor)) rfl ⟨made, idle⟩ rfl
  have cursorOff := exec_toggle (i := .noCursor)
    (s := (s.toggled (c ||| s.cfg.ctrlCursor)).toggled (c ||| s.cfg.ctrlCursor ||| s.cfg.ctrlBlink))
    rfl ⟨made, idle⟩ rfl
  refine ⟨_, _, _, _, cursorOn, blinkOn, cursorOff, rfl, ?_, ?_, ?_⟩
  · exact (and_not_and_of_disjoint cursor_blink).trans (or_and_self_right _ _)
  · exact and_not_and_self _ _
  · exact (and_not_and_of_disjoint cursor_display).trans
      ((or_and_of_disjoint blink_display).trans (or_and_of_disjoint cursor_display))

/-! ## Brightness -/

theorem exec_setBrightness_next {s t : State} {level : Byte} (h : exec (.setBrightness level) s = .next t) :
    t = s.brightened (withBrightness s.cfg (brightnessCode s.cfg level) s.func) :=
  (next_unique h (exec_setBrightness (ready_of_exec_next rfl h) level)).symm

/-- Without masking the code is gathered (45_brightness.md R101). -/
theorem withBrightness_unmasked {P : Params} (masking : P.brightnessMasking = false) (code : Option Byte)
    (func : Byte) : withBrightness P code func = func ||| code.getD 0 := by
  cases code <;> simp [withBrightness, setFlag, masking]

/-- A level's code lies within the brightness field (00_scope.md R7, item 4). -/
theorem brightnessCode_named {P : Params} (valid : P.Valid) {level code : Byte}
    (coded : brightnessCode P level = some code) : code &&& ~~~P.brtMask = 0 := by
  obtain ⟨named100, named75, named50, named25⟩ := valid.brtCodesInMask
  rw [brightnessCode] at coded
  split at coded
  · cases coded; exact named100
  split at coded
  · cases coded; exact named75
  split at coded
  · cases coded; exact named50
  split at coded
  · cases coded; exact named25
  · cases coded

theorem brightnessCode_getD_named {P : Params} (valid : P.Valid) (level : Byte) :
    (brightnessCode P level).getD 0 &&& ~~~P.brtMask = 0 := by
  cases coded : brightnessCode P level with
  | none => simp
  | some code => exact brightnessCode_named valid coded

/-- Settles O29: every call ORs a code of the field into FUNC, and OR is commutative. -/
theorem brightnessAccumulates : Obligations.BrightnessAccumulates := by
  unfold Obligations.BrightnessAccumulates
  intro s t u t' u' a b valid masking first second first' second'
  obtain rfl := exec_setBrightness_next first
  obtain rfl := exec_setBrightness_next second
  obtain rfl := exec_setBrightness_next first'
  obtain rfl := exec_setBrightness_next second'
  have namedA := brightnessCode_getD_named valid a
  have namedB := brightnessCode_getD_named valid b
  simp only [State.brightened, State.sent_func, State.sent_cfg, withBrightness_unmasked masking]
  refine ⟨or_and_of_named namedA, or_and_of_disjoint namedA, or_and_of_named namedB, ?_⟩
  rw [BitVec.or_assoc, BitVec.or_assoc, BitVec.or_comm ((brightnessCode s.cfg a).getD 0)]

/-- Settles O30: the field is cleared before the code is put into it. -/
theorem maskedBrightnessIsTheLastLevel : Obligations.MaskedBrightnessIsTheLastLevel := by
  unfold Obligations.MaskedBrightnessIsTheLastLevel
  intro s t level code valid masking h coded
  obtain rfl := exec_setBrightness_next h
  have named := brightnessCode_named valid coded
  have func : (s.brightened (withBrightness s.cfg (brightnessCode s.cfg level) s.func)).func =
      (s.func &&& ~~~s.cfg.brtMask) ||| code := by
    simp [State.brightened, coded, withBrightness, setFlag, clearFlag, masking]
  rw [func]
  constructor
  · rw [or_and_of_named named, and_not_and_self]
    exact BitVec.zero_or
  · rw [or_and_of_disjoint named, BitVec.and_assoc, BitVec.and_self]

/-! ## Repeating `begin` -/

theorem exec_begin_next {s t : State} {cols rows : Byte} (h : exec (.begin cols rows) s = .next t) :
    t = s.broughtUp rows :=
  (next_unique h (exec_begin (ready_of_exec_next rfl h) cols rows)).symm

/-- The four frames of `begin` (42_init.md R86). -/
theorem State.framesOf_broughtUp (s : State) (rows : Byte) :
    framesOf (s.broughtUp rows).trace = framesOf s.trace ++
      [frameWord s.cfg.modeCmd s.cfg.opClear,
       frameWord s.cfg.modeCmd (s.cfg.opCtrl ||| s.cfg.ctrlInit),
       frameWord s.cfg.modeCmd (s.cfg.opEntry ||| s.cfg.entryInit),
       frameWord s.cfg.modeCmd (s.cfg.opFunc ||| withLineCount s.cfg rows s.func)] := by
  simp [State.broughtUp, State.framesOf_sent, State.framesOf_waited, -State.sent_trace, -State.waited_trace]

/-- FUNC after two `begin`: the flag is set where either call had more than one row (42_init.md R87). -/
theorem withLineCount_twice (P : Params) (rows rows' func : Byte) :
    withLineCount P rows' (withLineCount P rows func) =
      if rows.toNat > 1 ∨ rows'.toNat > 1 then func ||| P.func2Line else func := by
  by_cases many : 1 < rows.toNat <;> by_cases many' : 1 < rows'.toNat <;>
    simp [withLineCount, setFlag, many, many', BitVec.or_assoc]

/-- Settles O18: the state is brought up twice, and the last frame is the second FUNCTION_SET. -/
theorem secondBeginKeepsTheTwoLineFlag : Obligations.SecondBeginKeepsTheTwoLineFlag := by
  unfold Obligations.SecondBeginKeepsTheTwoLineFlag
  intro s t u c r c' r' first second
  obtain rfl := exec_begin_next first
  obtain rfl := exec_begin_next second
  refine ⟨by simp, by simp, by simp, by simp [withLineCount_twice], ?_⟩
  rw [State.framesOf_broughtUp]
  simp

/-! ## Which register an instruction can write -/

namespace Answers

variable {s t : State} {i : Instr} (h : Answers s i t)
include h

/-- The parameters, the sequencer, the host's list and the representation are written by nothing (10_state.md R10). -/
theorem kept : t.cfg = s.cfg ∧ t.seq = s.seq ∧ t.program = s.program ∧ t.stepwise = s.stepwise := by
  cases h with
  | construct distinct => exact ⟨rfl, rfl, rfl, rfl⟩
  | begin cols rows => simp
  | createChar location eight => simp
  | _ => exact ⟨rfl, rfl, rfl, rfl⟩

/-- After an instruction no frame is in the frame register (10_state.md R18, R19). -/
theorem transients : t.fr = none ∧ t.bitidx = none := by
  cases h with
  | begin cols rows => simp
  | createChar location eight => simp
  | _ => exact ⟨rfl, rfl⟩

section
variable (other : ∀ a b c, i ≠ .construct a b c)
include other

/-- The pins are bound by `construct` alone (10_state.md R11). -/
theorem pins_kept : t.pins = s.pins ∧ t.fresh = s.fresh := by
  cases h with
  | construct distinct => exact absurd rfl (other _ _ _)
  | begin cols rows => simp
  | createChar location eight => simp
  | _ => exact ⟨rfl, rfl⟩

/-- The trace only grows (10_state.md R22). -/
theorem trace_prefix : ∃ es, t.trace = s.trace ++ es := by
  cases h with
  | construct distinct => exact absurd rfl (other _ _ _)
  | createChar location eight => simp [List.append_assoc]
  | begin cols rows => simp [State.broughtUp, List.append_assoc]
  | clear => simp [List.append_assoc]
  | _ => exact ⟨_, rfl⟩

/-- ENTRY and LINES are written by `begin` (10_state.md R15, R16). -/
theorem entry_lines_kept (notBegin : ∀ c r, i ≠ .begin c r) : t.entry = s.entry ∧ t.lines = s.lines := by
  cases h with
  | construct distinct => exact absurd rfl (other _ _ _)
  | begin cols rows => exact absurd rfl (notBegin _ _)
  | createChar location eight => simp
  | _ => exact ⟨rfl, rfl⟩

/-- CTRL is written by `begin` and the toggles (10_state.md R14). -/
theorem ctrl_kept (notBegin : ∀ c r, i ≠ .begin c r) (notToggle : toggleChange i = none) : t.ctrl = s.ctrl := by
  cases h with
  | construct distinct => exact absurd rfl (other _ _ _)
  | begin cols rows => exact absurd rfl (notBegin _ _)
  | toggle change written => rw [change] at notToggle; cases notToggle
  | createChar location eight => simp
  | _ => rfl

/-- FUNC is written by `begin` and `setBrightness` (10_state.md R13). -/
theorem func_kept (notBegin : ∀ c r, i ≠ .begin c r) (notBrightness : ∀ l, i ≠ .setBrightness l) :
    t.func = s.func := by
  cases h with
  | construct distinct => exact absurd rfl (other _ _ _)
  | begin cols rows => exact absurd rfl (notBegin _ _)
  | setBrightness level => exact absurd rfl (notBrightness _)
  | createChar location eight => simp
  | _ => rfl

/-- A value is returned by `write` (47_write.md R109). -/
theorem returned_kept (notWrite : ∀ b, i ≠ .write b) : t.returned = s.returned := by
  cases h with
  | construct distinct => exact absurd rfl (other _ _ _)
  | write byte => exact absurd rfl (notWrite _)
  | begin cols rows => simp
  | createChar location eight => simp
  | _ => rfl

end

end Answers

theorem exec_write_next {s t : State} {byte : Byte} (h : exec (.write byte) s = .next t) :
    t = { s.sent (frameWord s.cfg.modeData byte) with returned := s.returned ++ [1] } :=
  (next_unique h (exec_write (ready_of_exec_next rfl h) byte)).symm

/-- Settles O49, register by register. -/
theorem registersHaveOnlyTheirWriters : Obligations.RegistersHaveOnlyTheirWriters := by
  unfold Obligations.RegistersHaveOnlyTheirWriters
  intro i s t h other
  have answer := answers_of_exec h
  obtain ⟨cfg, seq, program, stepwise⟩ := answer.kept
  obtain ⟨fr, bitidx⟩ := answer.transients
  obtain ⟨pins, fresh⟩ := answer.pins_kept other
  refine ⟨cfg, pins, seq, program, stepwise, fresh, fr, bitidx, answer.trace_prefix other,
    answer.entry_lines_kept other, fun notBegin notToggle => answer.ctrl_kept other notBegin ?_,
    answer.func_kept other, ?_, answer.returned_kept other⟩
  · rw [mem_toggles_iff, ← Option.isSome_iff_exists] at notToggle
    simpa using notToggle
  · rintro b rfl
    rw [exec_write_next h]

/-- Settles O31: FUNC changes in `begin`, which can set the two-line flag, and in `setBrightness`, which without
masking ORs a code into it. -/
theorem functionRegisterIsMonotone : Obligations.FunctionRegisterIsMonotone := by
  unfold Obligations.FunctionRegisterIsMonotone
  intro i s t masking other h
  by_cases begins : ∃ c r, i = .begin c r
  · obtain ⟨c, r, rfl⟩ := begins
    obtain rfl := exec_begin_next h
    rw [State.broughtUp_func, withLineCount]
    split
    · rw [setFlag, BitVec.or_comm, or_and_self_right]
    · rw [BitVec.and_self]
  by_cases brightens : ∃ l, i = .setBrightness l
  · obtain ⟨l, rfl⟩ := brightens
    obtain rfl := exec_setBrightness_next h
    change withBrightness s.cfg (brightnessCode s.cfg l) s.func &&& s.func = s.func
    rw [withBrightness_unmasked masking, BitVec.or_comm, or_and_self_right]
  push Not at begins brightens
  rw [(answers_of_exec h).func_kept other begins brightens, BitVec.and_self]

/-! ## Lengths and times -/

theorem State.length_trace_sent (s : State) (w : FrameWord) : (s.sent w).trace.length = s.trace.length + 86 := by
  simp

theorem State.length_trace_sentAll (s : State) (ws : List FrameWord) :
    (s.sentAll ws).trace.length = s.trace.length + 86 * ws.length := by
  induction ws generalizing s with
  | nil => rfl
  | cons w ws ih => rw [State.sentAll_cons, ih, State.length_trace_sent, List.length_cons]; ring

theorem State.unitsOf_sentAll (s : State) (ws : List FrameWord) :
    unitsOf (s.sentAll ws).trace = unitsOf s.trace + ws.length * (2 * s.cfg.tStb + 32 * s.cfg.tHalf) := by
  induction ws generalizing s with
  | nil => simp
  | cons w ws ih => rw [State.sentAll_cons, ih, State.unitsOf_sent, List.length_cons, State.sent_cfg]; ring

/-- Every instruction but four sends one frame, and its events are that frame's. -/
theorem Answers.oneFrame {s t : State} {i : Instr} (h : Answers s i t) (notConstruct : ∀ a b c, i ≠ .construct a b c)
    (notBegin : ∀ c r, i ≠ .begin c r) (notClear : i ≠ .clear) (notGlyph : ∀ l g, i ≠ .createChar l g) :
    t.trace.length = s.trace.length + 86 ∧
      unitsOf t.trace = unitsOf s.trace + (2 * s.cfg.tStb + 32 * s.cfg.tHalf) := by
  have one : ∃ w, t.trace = s.trace ++ frameEvents s.cfg w := by
    cases h with
    | construct distinct => exact absurd rfl (notConstruct _ _ _)
    | begin cols rows => exact absurd rfl (notBegin _ _)
    | clear => exact absurd rfl notClear
    | createChar location eight => exact absurd rfl (notGlyph _ _)
    | _ => exact ⟨_, rfl⟩
  obtain ⟨w, trace⟩ := one
  rw [trace, List.length_append, frameEvents_length, unitsOf_append, unitsOf_frameEvents]
  exact ⟨rfl, rfl⟩

/-- Settles O48: four operations by their own sequences, the others by their one frame. -/
theorem operationLengthsAreFixed : Obligations.OperationLengthsAreFixed := by
  unfold Obligations.OperationLengthsAreFixed
  intro i s t h
  have answer := answers_of_exec h
  cases i with
  | construct a b c =>
    cases answer with
    | inner word => cases word
    | toggle change written => cases change
    | construct distinct => exact ⟨rfl, rfl⟩
  | begin cols rows =>
    obtain rfl := exec_begin_next h
    simp [State.broughtUp]
    omega
  | clear =>
    obtain rfl := exec_clear_next h
    simp [Nat.add_assoc]
  | createChar location glyph =>
    cases answer with
    | inner word => cases word
    | toggle change written => cases change
    | createChar location eight =>
      have ten : (glyphWords s.cfg location glyph ++ [tailWord s.cfg]).length = 10 := by simp [glyphWords, eight]
      simp only [State.length_trace_sentAll, State.unitsOf_sentAll, ten, and_self]
  | _ => exact answer.oneFrame (by simp) (by simp) (by simp) (by simp)

end Sys2Proof.Machine
end

section
/-!
PROOFS. Addresses and stores (44_cursor_position.md, 46_custom_glyph.md, 20_memory.md R31, R32): the address a frame
carries, for all operands, and the stores the block asks of the chip after an address frame.
-/

namespace Sys2Proof.Machine

/-! ## Addresses -/

/-- Under an opcode of bit 7 a truncated sum keeps its low seven bits. -/
theorem ofNat_or_bit7 (n : Nat) : BitVec.ofNat 8 (128 ||| n) = 128#8 ||| BitVec.ofNat 8 (n % 128) := by
  apply BitVec.eq_of_getLsbD_eq
  intro i hi
  have bit7 : (128 : Nat).testBit i = decide (7 = i) := Nat.testBit_two_pow (n := 7)
  have low : (n % 128).testBit i = (decide (i < 7) && n.testBit i) := Nat.testBit_mod_two_pow n 7 i
  simp only [BitVec.getLsbD_or, BitVec.getLsbD_ofNat, hi, decide_true, Bool.true_and, Nat.testBit_or, bit7, low]
  grind

/-- The payload of `setCursor` is the opcode over the address sum modulo 128 (44_cursor_position.md R99). -/
theorem setCursorPayload_eq {P : Params} (valid : P.Valid) (col row : Byte) :
    setCursorPayload P col row = commandPayload P.opDdram (BitVec.ofNat 8 (ddramAddress P col row % 128)) := by
  rw [setCursorPayload, commandPayload, valid.ddramHighest]
  exact ofNat_or_bit7 _

theorem toNat_ofNat_mod (n : Nat) : (BitVec.ofNat 8 (n % 128)).toNat = n % 128 := by
  rw [BitVec.toNat_ofNat, Nat.mod_eq_of_lt (by omega)]

/-- The frame of `setCursor` is SET_DDRAM_ADDR with that address, whatever the operands. -/
theorem decodeFrame_setCursor {P : Params} (valid : P.Valid) (col row : Byte) :
    decodeFrame P (frameWord P.modeCmd (setCursorPayload P col row)) =
      .setDdramAddr (BitVec.ofNat 8 (ddramAddress P col row % 128)) := by
  have under : BitVec.ofNat 8 (ddramAddress P col row % 128) < P.opDdram := by
    rw [valid.ddramHighest, BitVec.lt_def, toNat_ofNat_mod]
    exact Nat.mod_lt _ (by decide)
  rw [setCursorPayload_eq valid, valid.decodeFrame_ddram under]

/-- A masked and shifted glyph location loses no bit (00_scope.md R7, item 7). -/
theorem toNat_cgramAddress {P : Params} (valid : P.Valid) (location : Byte) :
    (cgramAddress P location).toNat = (location.toNat &&& P.locMask.toNat) <<< P.cgramShift ∧
      cgramAddress P location < P.opCgram := by
  have fits : (location.toNat &&& P.locMask.toNat) <<< P.cgramShift < P.opCgram.toNat := by
    refine lt_of_le_of_lt ?_ valid.cgramFits
    rw [Nat.shiftLeft_eq, Nat.shiftLeft_eq]
    exact Nat.mul_le_mul_right _ Nat.and_le_right
  have exact : (cgramAddress P location).toNat = (location.toNat &&& P.locMask.toNat) <<< P.cgramShift := by
    rw [cgramAddress, BitVec.toNat_shiftLeft, BitVec.toNat_and, Nat.mod_eq_of_lt (fits.trans P.opCgram.isLt)]
  exact ⟨exact, by rwa [BitVec.lt_def, exact]⟩

/-- The first frame of `createChar` is SET_CGRAM_ADDR with the location's address. -/
theorem decodeFrame_cgramPayload {P : Params} (valid : P.Valid) (location : Byte) :
    decodeFrame P (frameWord P.modeCmd (cgramPayload P location)) = .setCgramAddr (cgramAddress P location) :=
  valid.decodeFrame_cgram (toNat_cgramAddress valid location).2

/-- The last frame of `createChar` is RETURN_HOME or SET_DDRAM_ADDR with address 0 (46_custom_glyph.md R107). -/
theorem decodeFrame_tailPayload {P : Params} (valid : P.Valid) :
    decodeFrame P (frameWord P.modeCmd (tailPayload P)) =
      match P.createCharTail with
      | .home => .returnHome
      | .ddram0 => .setDdramAddr 0 := by
  rw [tailPayload]
  cases P.createCharTail with
  | home => exact valid.decodeFrame_home
  | ddram0 =>
    have bare : commandPayload P.opDdram 0 = P.opDdram := BitVec.or_zero
    have under : 0 < P.opDdram := by rw [valid.ddramHighest]; decide
    exact bare ▸ valid.decodeFrame_ddram under

theorem exec_setCursor_next {s t : State} {col row : Byte} (h : exec (.setCursor col row) s = .next t) :
    t = s.sent (frameWord s.cfg.modeCmd (setCursorPayload s.cfg col row)) :=
  (next_unique h (exec_setCursor (ready_of_exec_next rfl h) col row)).symm

/-- Settles O26: the one frame sent is the last, and it decodes to the sum modulo 128. -/
theorem setCursorAddressIsModulo128 : Obligations.SetCursorAddressIsModulo128 := by
  unfold Obligations.SetCursorAddressIsModulo128
  intro s col row valid made idle
  refine ⟨_, _, exec_setCursor ⟨made, idle⟩ col row, by rw [State.framesOf_sent, List.getLast?_concat], ?_⟩
  rw [decodeFrame_setCursor valid, ddramAddress_eq]

/-! ## Stores -/

/-- A data frame stores its byte at the place reached and moves one place (20_memory.md R31, R32). -/
theorem StoreReader.read_data {P : Params} (valid : P.Valid) (r : StoreReader) (v : Byte) :
    r.read P (frameWord P.modeData v) =
      { r with advanced := r.advanced + 1, stores := r.stores ++ [⟨r.base, r.advanced, v⟩] } := by
  rw [StoreReader.read, valid.decodeFrame_data]

/-- The frame of `setCursor` points the counter at the address sum modulo 128 (20_memory.md R31). -/
theorem StoreReader.read_setCursor {P : Params} (valid : P.Valid) (r : StoreReader) (col row : Byte) :
    r.read P (frameWord P.modeCmd (setCursorPayload P col row)) =
      { r with base := .at .ddram (ddramAddress P col row % 128), advanced := 0 } := by
  rw [StoreReader.read, decodeFrame_setCursor valid]
  simp only [toNat_ofNat_mod]

/-- The first frame of `createChar` points it at the location's CGRAM address. -/
theorem StoreReader.read_cgramPayload {P : Params} (valid : P.Valid) (r : StoreReader) (location : Byte) :
    r.read P (frameWord P.modeCmd (cgramPayload P location)) =
      { r with
        base := .at .cgram ((location.toNat &&& P.locMask.toNat) <<< P.cgramShift)
        advanced := 0 } := by
  rw [StoreReader.read, decodeFrame_cgramPayload valid, ← (toNat_cgramAddress valid location).1]

/-- The last frame of `createChar` points it home, or at DDRAM address 0 (46_custom_glyph.md R107). -/
theorem StoreReader.read_tailPayload {P : Params} (valid : P.Valid) (r : StoreReader) :
    r.read P (frameWord P.modeCmd (tailPayload P)) =
      { r with
        base := match P.createCharTail with
          | .home => .home
          | .ddram0 => .at .ddram 0
        advanced := 0 } := by
  rw [StoreReader.read, decodeFrame_tailPayload valid]
  cases P.createCharTail <;> rfl

/-- Data frames one after another store their bytes one place apart. -/
theorem StoreReader.foldl_read_data {P : Params} (valid : P.Valid) (bytes : List Byte) (r : StoreReader) :
    (bytes.map (frameWord P.modeData)).foldl (StoreReader.read P) r =
      { r with
        advanced := r.advanced + bytes.length
        stores := r.stores ++ bytes.mapIdx fun k v => ⟨r.base, r.advanced + k, v⟩ } := by
  induction bytes generalizing r with
  | nil => simp
  | cons v vs ih =>
    rw [List.map_cons, List.foldl_cons, StoreReader.read_data valid, ih]
    simp [List.mapIdx_cons, Nat.add_assoc, Nat.add_comm 1]

/-- What the frames of a further trace add to the stores is read from where the trace so far leaves the reader. -/
theorem storesOf_append (P : Params) (frames more : List FrameWord) :
    storesOf P (frames ++ more) =
      (more.foldl (StoreReader.read P) (frames.foldl (StoreReader.read P) ⟨.unknown, 0, []⟩)).stores := by
  rw [storesOf, List.foldl_append]

/-- Settles O36: the address frame points the counter, the data frame stores there. -/
theorem writeStoresAtTheCursor : Obligations.WriteStoresAtTheCursor := by
  unfold Obligations.WriteStoresAtTheCursor
  intro s t u col row byte valid positioned written
  obtain rfl := exec_setCursor_next positioned
  obtain rfl := exec_write_next written
  rw [State.framesOf_sent, State.framesOf_sent, List.append_assoc, storesOf_append, ← ddramAddress_eq]
  simp only [State.sent_cfg, List.singleton_append, List.foldl_cons, List.foldl_nil,
    StoreReader.read_setCursor valid, StoreReader.read_data valid]
  rfl

/-- Settles O37: the address frame points the counter, the data frames store in order, the tail points the counter
home, and the last data frame stores there. -/
theorem glyphRowsStoreInOrder : Obligations.GlyphRowsStoreInOrder := by
  unfold Obligations.GlyphRowsStoreInOrder
  intro s t u location byte glyph valid stored written
  have frames := framesOf_exec_createChar stored
  obtain ⟨cfg, -⟩ := (answers_of_exec stored).kept
  obtain rfl := exec_write_next written
  rw [State.framesOf_sent, frames, cfg, List.append_assoc, storesOf_append]
  simp only [List.cons_append, List.append_assoc, List.foldl_cons, List.foldl_append, List.foldl_nil, List.nil_append,
    StoreReader.read_cgramPayload valid, StoreReader.foldl_read_data valid, StoreReader.read_tailPayload valid,
    StoreReader.read_data valid, Nat.zero_add]
  rfl

end Sys2Proof.Machine
end

section
/-!
PROOFS. The step (10_state.md R17, decision D2): what one step of the block does, and that an operation run action by
action reaches the state it reaches when run whole.
-/

namespace Sys2Proof.Machine

/-- A single action at the head of the sequencer is made, and the position moves past it. -/
theorem step_prim {s : State} {p : Prim} {rest : List SeqStep} (next : s.seq = .prim p :: rest) :
    step s = .next (({ s with seq := rest } : State).prim p) := by
  rw [step, next]
  rfl

/-- Settles O46, case by case of the step. -/
theorem stepRunsTheDecodedInstruction : Obligations.StepRunsTheDecodedInstruction := by
  unfold Obligations.StepRunsTheDecodedInstruction
  refine ⟨fun s r rs i idle whole next decoded => ?_, fun s c rest next whole => ?_, fun s p rest => step_prim,
    fun s r rs idle next code => ?_, fun s idle none => ?_⟩
  · simp [step, idle, next, decoded, issue, whole]
  · simp [step, next, whole]
  · simp [step, idle, next, decodeRequest_noSuchOperation code, refusalOf]
  · simp [step, idle, none, Machine.idle]

/-! ## Runs of steps -/

/-- One step leads from one state to the other. -/
def Steps (s t : State) : Prop := step s = .next t

/-- Some number of steps leads from one state to the other. -/
abbrev Reaches : State → State → Prop := Relation.ReflTransGen Steps

theorem run_succ_of_step {M : Host.Core} {s t : M.State} (one : M.step s = .next t) (n : Nat) :
    M.run (n + 1) s = M.run n t := by
  rw [Host.Core.run, one]

/-- The states reached are those the machine's runs answer. -/
theorem exists_run_of_reaches {s t : State} (path : Reaches s t) : ∃ n, Sys2Proof.core.run n s = .next t := by
  induction path using Relation.ReflTransGen.head_induction_on with
  | refl => exact ⟨0, rfl⟩
  | head one _ ih =>
    obtain ⟨n, run⟩ := ih
    exact ⟨n + 1, (run_succ_of_step (M := Sys2Proof.core) one n).trans run⟩

/-! ## The stepwise representation -/

/-- The state with the sequencer at `xs`. -/
def State.at (s : State) (xs : List SeqStep) : State := { s with seq := xs }

/-- An action does not read or move the sequencer's position. -/
theorem State.prim_at (s : State) (xs : List SeqStep) (p : Prim) : (s.at xs).prim p = (s.prim p).at xs := by
  cases p with
  | bit i => cases loaded : s.fr <;> simp [State.prim, State.at, State.emit, loaded]
  | _ => rfl

/-- A list of single actions is made one by one (10_state.md R17). -/
theorem reaches_prims (ps : List Prim) (rest : List SeqStep) (s : State) :
    Reaches (s.at (ps.map .prim ++ rest)) ((ps.foldl State.prim s).at rest) := by
  induction ps generalizing s with
  | nil => exact .refl
  | cons p ps ih =>
    refine .head (step_prim rfl) ?_
    rw [List.foldl_cons]
    exact State.prim_at s _ p ▸ ih (s.prim p)

/-- One step of an operation's sequence: a single action at once, a call by its own actions (49_laws_and_control.md
R152). -/
theorem reaches_seqStep (x : SeqStep) (rest : List SeqStep) {s : State} (made : s.Constructed)
    (stepwise : s.stepwise = true) : Reaches (s.at (x :: rest)) ((s.seqStep x).at rest) := by
  cases x with
  | prim p => exact reaches_prims [p] rest s
  | call c =>
    have unfolds : Steps (s.at (.call c :: rest))
        (s.at ((transmitPrims s.cfg (callWord s.cfg c)).map .prim ++ rest)) := by
      obtain ⟨pins, bound⟩ := Option.ne_none_iff_exists'.mp made
      simp [Steps, step, State.at, stepwise, unfoldCall, bound, expandStep]
    exact .head unfolds (reaches_prims _ rest s)

/-- An operation's whole sequence (decision D2). -/
theorem reaches_run (xs rest : List SeqStep) {s : State} (made : s.Constructed) (stepwise : s.stepwise = true) :
    Reaches (s.at (xs ++ rest)) ((s.run xs).at rest) := by
  induction xs generalizing s with
  | nil => exact .refl
  | cons x xs ih =>
    obtain ⟨_, pins, _, _, _, _, _, _, stepwise', _⟩ := State.run_frame [x] s
    have made' : (s.run [x]).pins ≠ none := by rwa [pins]
    exact (reaches_seqStep x (xs ++ rest) made stepwise).trans (ih made' (stepwise'.trans stepwise))

/-- Where an instruction answers a state, that state has its pins bound. -/
theorem constructed_of_exec {i : Instr} {s t : State} (h : exec i s = .next t) : t.Constructed := by
  by_cases built : ∃ a b c, i = .construct a b c
  · obtain ⟨a, b, c, rfl⟩ := built
    cases answers_of_exec h with
    | inner word => cases word
    | toggle change written => cases change
    | construct distinct => exact Option.some_ne_none _
  · push Not at built
    obtain ⟨pins, -⟩ := (answers_of_exec h).pins_kept built
    rw [State.Constructed, pins]
    intro none
    rw [nothingRunsWithoutAnInstance i s none built] at h
    cases h

/-- Settles O47: the first step takes the request and leaves the plan's sequence to the sequencer, whose run ends in
the plan's state. -/
theorem stepwiseRunEqualsWholeOperation : Obligations.StepwiseRunEqualsWholeOperation := by
  unfold Obligations.StepwiseRunEqualsWholeOperation
  intro s t r rs i idle stepwise next decoded h
  obtain ⟨cfg, seq, -, stepwise'⟩ := (answers_of_exec h).kept
  have made := constructed_of_exec h
  obtain ⟨j, planned, rfl⟩ := exec_next h
  obtain ⟨_, pins, _, _, _, _, seqRun, _, stepwiseRun, _⟩ := State.run_frame j.steps j.base
  have done : (j.base.run j.steps).seq = [] := seq.trans idle
  have base : j.base.seq = [] := seqRun.symm.trans done
  have request : step s = issue i { s with program := rs } := by
    have taken := step_request idle decoded rs
    rwa [← next] at taken
  have launches : Steps s (j.base.at (j.steps ++ [])) := by
    rw [Steps, request, issue, if_pos (by exact stepwise), launch, planned, begun, base]
    rfl
  have runs := reaches_run j.steps [] (s := j.base) (by rwa [State.Constructed, ← pins])
    (stepwiseRun.symm.trans (stepwise'.trans stepwise))
  have ends : (j.base.run j.steps).at [] = j.base.run j.steps := by rw [State.at, ← done]
  exact ⟨done, exists_run_of_reaches (.head launches (ends ▸ runs))⟩

end Sys2Proof.Machine
end

section
/-!
PROOFS. The parts of the invariant of the block (`State.Inv`): what a frame, a wait and a register write do to them,
which register values a frame list carries last, and which register values are legal. Shadow consistency
(10_state.md R26) is broken between a register write and the frame that sends it, so the rest of the invariant,
`State.Steady`, is kept frame by frame, and consistency is read off the frames of the whole operation.
-/

namespace Sys2Proof

/-! ## Bits of a mask -/

section
variable {a b m : Byte}

theorem named_or (ha : a &&& ~~~m = 0) (hb : b &&& ~~~m = 0) : (a ||| b) &&& ~~~m = 0 := by
  rw [or_and_of_disjoint hb, ha]

theorem named_and_not (ha : a &&& ~~~m = 0) : a &&& ~~~b &&& ~~~m = 0 := by
  rw [BitVec.and_assoc, BitVec.and_comm (~~~b), ← BitVec.and_assoc, ha]
  exact BitVec.zero_and

/-- Bits within a field of a mask are within the mask. -/
theorem named_trans {n : Byte} (ha : a &&& ~~~m = 0) (hm : m &&& ~~~n = 0) : a &&& ~~~n = 0 := by
  ext i hi
  have bit := congrArg (·.getLsbD i) ha
  have bit' := congrArg (·.getLsbD i) hm
  simp [hi] at bit bit' ⊢
  grind

/-- Bits within a mask are disjoint from what the mask is disjoint from. -/
theorem disjoint_of_named {n : Byte} (ha : a &&& ~~~m = 0) (apart : m &&& n = 0) : a &&& n = 0 := by
  ext i hi
  have bit := congrArg (·.getLsbD i) ha
  have bit' := congrArg (·.getLsbD i) apart
  simp [hi] at bit bit' ⊢
  grind

theorem named_or_left : a &&& ~~~(a ||| b) = 0 := by
  ext i
  simp +contextual

theorem named_or_right : b &&& ~~~(a ||| b) = 0 := by
  ext i
  simp +contextual

/-- A value within a mask is below an opcode the mask is below. -/
theorem lt_of_named {op : Byte} (ha : a &&& ~~~m = 0) (below : m < op) : a < op := by
  have within : a &&& m = a := by
    ext i hi
    have bit := congrArg (·.getLsbD i) ha
    simp [hi] at bit ⊢
    grind
  have le : a.toNat ≤ m.toNat := by
    rw [← within, BitVec.toNat_and]
    exact Nat.and_le_right
  exact BitVec.lt_def.mpr (lt_of_le_of_lt le (BitVec.lt_def.mp below))

end

end Sys2Proof

namespace Sys2Proof.Machine

/-! ## What a frame, a wait and a register write keep -/

/-- The invariant but for shadow consistency. -/
structure State.Steady (s : State) : Prop where
  valid : s.cfg.Valid
  resting : s.Resting
  legal : s.RegistersLegal
  atRest : s.LinesAtRest
  emits : s.EmitsOnlyItsFrames

theorem State.inv_iff {s : State} : s.Inv ↔ s.Steady ∧ s.ShadowConsistent :=
  ⟨fun h => ⟨⟨h.valid, h.resting, h.legal, h.atRest, h.emits⟩, h.consistent⟩,
    fun ⟨h, c⟩ => ⟨h.valid, h.resting, h.legal, h.atRest, h.emits, c⟩⟩

namespace State.Steady

variable {s : State} (h : s.Steady)
include h

/-- A frame closes itself, leaves the lines at rest, and is the one frame more (40_transport.md R70, R71). -/
theorem sent {w : FrameWord} (emittable : Emittable s.cfg w) : (s.sent w).Steady where
  valid := h.valid
  resting := ⟨h.resting.whole, h.resting.idle, rfl, rfl, by simp⟩
  legal := ⟨h.legal.together, h.legal.entryInit, h.legal.ctrlNamed, h.legal.funcNamed, h.legal.ifwidth⟩
  atRest := by
    intro w' last
    rw [State.framesOf_sent, List.getLast?_concat] at last
    cases last
    rfl
  emits := by
    intro w' mem
    rw [State.framesOf_sent, List.mem_append, List.mem_singleton] at mem
    obtain old | rfl := mem
    · exact h.emits w' old
    · exact emittable

/-- A wait is in no frame and moves no line (70_reset_and_hazards.md R149). -/
theorem waited (n : Nat) : (s.waited n).Steady where
  valid := h.valid
  resting := ⟨h.resting.whole, h.resting.idle, h.resting.noFrame, h.resting.noIndex, by simpa using h.resting.closed⟩
  legal := ⟨h.legal.together, h.legal.entryInit, h.legal.ctrlNamed, h.legal.funcNamed, h.legal.ifwidth⟩
  atRest := by
    intro w last
    rw [State.framesOf_waited] at last
    exact h.atRest w last
  emits := by
    intro w mem
    rw [State.framesOf_waited] at mem
    exact h.emits w mem

/-- A register write that leaves the registers legal leaves the rest as it is. -/
theorem written {f : Byte} {c e l : Reg8}
    (legal : ({ s with func := f, ctrl := c, entry := e, lines := l } : State).RegistersLegal) :
    ({ s with func := f, ctrl := c, entry := e, lines := l } : State).Steady where
  valid := h.valid
  resting := ⟨h.resting.whole, h.resting.idle, h.resting.noFrame, h.resting.noIndex, h.resting.closed⟩
  legal := legal
  atRest := h.atRest
  emits := h.emits

end State.Steady

/-! ## The register values last sent (10_state.md R26) -/

/-- The values of CTRL, ENTRY and FUNC a frame row carries. -/
def rowValues : Instr → Option Byte × Option Byte × Option Byte
  | .displayControl v => (some v, none, none)
  | .entryModeSet v => (none, some v, none)
  | .functionSet v => (none, none, some v)
  | _ => (none, none, none)

theorem frameValues_eq_rowValues (P : Params) (w : FrameWord) :
    (displayControlValue P w, entryModeValue P w, functionSetValue P w) = rowValues (decodeFrame P w) := by
  rw [displayControlValue, entryModeValue, functionSetValue]
  cases decodeFrame P w <;> rfl

/-- The value last sent, after one frame more. -/
theorem lastValue_concat (value : FrameWord → Option Byte) (frames : List FrameWord) (w : FrameWord) :
    lastValue value (frames ++ [w]) = (value w).or (lastValue value frames) := by
  rw [lastValue, List.filterMap_append, List.getLast?_append, lastValue]
  cases carried : value w <;> simp [carried]

/-- The values of CTRL, ENTRY and FUNC last sent. -/
def lastValues (P : Params) (frames : List FrameWord) : Option Byte × Option Byte × Option Byte :=
  (lastValue (displayControlValue P) frames, lastValue (entryModeValue P) frames,
    lastValue (functionSetValue P) frames)

/-- A frame's values come before those of the frames before it. -/
theorem lastValues_concat {P : Params} {w : FrameWord} {c e f : Option Byte}
    (values : rowValues (decodeFrame P w) = (c, e, f)) (frames : List FrameWord) :
    lastValues P (frames ++ [w]) =
      (c.or (lastValues P frames).1, e.or (lastValues P frames).2.1, f.or (lastValues P frames).2.2) := by
  cases (frameValues_eq_rowValues P w).trans values
  simp only [lastValues, lastValue_concat]

/-- A frame that is no register command changes none of them. -/
theorem lastValues_concat_quiet {P : Params} {w : FrameWord}
    (quiet : rowValues (decodeFrame P w) = (none, none, none)) (frames : List FrameWord) :
    lastValues P (frames ++ [w]) = lastValues P frames := by
  rw [lastValues_concat quiet]
  rfl

theorem State.shadowConsistent_iff {s : State} :
    s.ShadowConsistent ↔
      ∀ c e, s.ctrl = .val c → s.entry = .val e →
        lastValues s.cfg (framesOf s.trace) = (some c, some e, some s.func) := by
  simp only [State.ShadowConsistent, lastValues, Prod.mk.injEq]

/-! ## Legal register values -/

/-- What a value of FUNC keeps: named bits alone, the interface width set (10_state.md R13). -/
def FuncLegal (P : Params) (f : Byte) : Prop := f &&& ~~~P.funcBits = 0 ∧ f &&& P.funcIfwidth = P.funcIfwidth

/-- Setting bits of the two-line flag or of the brightness field keeps FUNC legal. -/
theorem FuncLegal.or {P : Params} {f c m : Byte} (legal : FuncLegal P f) (within : c &&& ~~~m = 0)
    (named : m &&& ~~~P.funcBits = 0) (apart : m &&& P.funcIfwidth = 0) : FuncLegal P (f ||| c) :=
  ⟨named_or legal.1 (named_trans within named),
    (or_and_of_disjoint (disjoint_of_named within apart)).trans legal.2⟩

theorem brtMask_named (P : Params) : P.brtMask &&& ~~~P.funcBits = 0 := named_or_right

theorem func2Line_named (P : Params) : P.func2Line &&& ~~~P.funcBits = 0 :=
  named_trans named_or_right named_or_left

section
variable {P : Params} (valid : P.Valid)
include valid

theorem FuncLegal.withLineCount {f : Byte} (legal : FuncLegal P f) (rows : Byte) :
    FuncLegal P (withLineCount P rows f) := by
  rw [Machine.withLineCount]
  split
  · exact legal.or (by simp) (func2Line_named P) valid.funcFieldsDisjoint.2.1
  · exact legal

theorem FuncLegal.withBrightness {f : Byte} (legal : FuncLegal P f) (level : Byte) :
    FuncLegal P (withBrightness P (brightnessCode P level) f) := by
  obtain ⟨-, -, apart⟩ := valid.funcFieldsDisjoint
  have cleared : FuncLegal P (f &&& ~~~P.brtMask) :=
    ⟨named_and_not legal.1, (and_not_and_of_disjoint apart).trans legal.2⟩
  cases coded : brightnessCode P level with
  | none => exact legal
  | some code =>
    have named := brightnessCode_named valid coded
    rw [Machine.withBrightness, setFlag]
    split
    · exact cleared.or named (brtMask_named P) apart
    · exact legal.or named (brtMask_named P) apart

end

end Sys2Proof.Machine
end

section
/-!
PROOFS. Every host operation keeps the invariant (41_command_frames.md R83; 10_state.md R13 to R16, R26;
40_transport.md R71): one lemma for each answer of `Answers`, assembled into the step.
-/

namespace Sys2Proof.Machine

/-! ## The frames the block emits -/

theorem emittable_tailWord (P : Params) : Emittable P (tailWord P) := by
  rw [tailWord, tailPayload]
  cases P.createCharTail with
  | home => exact .returnHome
  | ddram0 => simpa using Emittable.setDdramAddr (P := P) 0

theorem emittable_glyphWords (P : Params) (location : Byte) (glyph : List Byte) :
    ∀ w ∈ glyphWords P location glyph, Emittable P w := by
  intro w mem
  rw [glyphWords, List.mem_cons, List.mem_map] at mem
  obtain rfl | ⟨v, -, rfl⟩ := mem
  · exact .setCgramAddr location
  · exact .dataWrite v

section
variable {P : Params} (valid : P.Valid)
include valid

theorem rowValues_tailWord : rowValues (decodeFrame P (tailWord P)) = (none, none, none) := by
  rw [tailWord, decodeFrame_tailPayload valid]
  cases P.createCharTail <;> rfl

theorem rowValues_glyphWords (location : Byte) (glyph : List Byte) :
    ∀ w ∈ glyphWords P location glyph, rowValues (decodeFrame P w) = (none, none, none) := by
  intro w mem
  rw [glyphWords, List.mem_cons, List.mem_map] at mem
  obtain rfl | ⟨v, -, rfl⟩ := mem
  · rw [decodeFrame_cgramPayload valid]
    rfl
  · rw [valid.decodeFrame_data]
    rfl

variable {v : Byte}

theorem rowValues_ctrl (named : v &&& ~~~P.ctrlBits = 0) :
    rowValues (decodeFrame P (frameWord P.modeCmd (P.opCtrl ||| v))) = (some v, none, none) :=
  congrArg rowValues (valid.decodeFrame_ctrl (lt_of_named named valid.opcodesHighest.1))

theorem rowValues_entry (named : v &&& ~~~P.entryBits = 0) :
    rowValues (decodeFrame P (frameWord P.modeCmd (P.opEntry ||| v))) = (none, some v, none) :=
  congrArg rowValues (valid.decodeFrame_entry (lt_of_named named valid.opcodesHighest.2.1))

theorem rowValues_func (named : v &&& ~~~P.funcBits = 0) :
    rowValues (decodeFrame P (frameWord P.modeCmd (P.opFunc ||| v))) = (none, none, some v) :=
  congrArg rowValues (valid.decodeFrame_func (lt_of_named named valid.opcodesHighest.2.2))

theorem rowValues_clear : rowValues (decodeFrame P (frameWord P.modeCmd P.opClear)) = (none, none, none) :=
  congrArg rowValues valid.decodeFrame_clear

theorem rowValues_home : rowValues (decodeFrame P (frameWord P.modeCmd P.opHome)) = (none, none, none) :=
  congrArg rowValues valid.decodeFrame_home

end

/-- A toggle sets or clears a named bit, so CTRL keeps its unnamed bits clear (10_state.md R14). -/
theorem toggleChange_named {i : Instr} {f : Params → Byte → Byte} (change : toggleChange i = some f) {P : Params}
    {c : Byte} (named : c &&& ~~~P.ctrlBits = 0) : f P c &&& ~~~P.ctrlBits = 0 := by
  have display : P.ctrlDisplay &&& ~~~P.ctrlBits = 0 := named_trans named_or_left named_or_left
  have cursor : P.ctrlCursor &&& ~~~P.ctrlBits = 0 := named_trans named_or_right named_or_left
  have blink : P.ctrlBlink &&& ~~~P.ctrlBits = 0 := named_or_right
  cases i with
  | display => cases change; exact named_or named display
  | noDisplay => cases change; exact named_and_not named
  | cursor => cases change; exact named_or named cursor
  | noCursor => cases change; exact named_and_not named
  | blink => cases change; exact named_or named blink
  | noBlink => cases change; exact named_and_not named
  | _ => cases change

/-! ## A new construction -/

/-- A block just constructed has emitted no frame and holds the reset values (42_init.md R85). -/
theorem State.inv_constructed {s : State} (valid : s.cfg.Valid) (whole : s.stepwise = false) (idle : s.seq = [])
    (a b c : LineId) : (s.constructed a b c).Inv where
  valid := valid
  resting := ⟨whole, idle, rfl, rfl, rfl⟩
  legal := ⟨⟨⟨fun _ => rfl, fun _ => rfl⟩, ⟨fun _ => rfl, fun _ => rfl⟩⟩, nofun, nofun,
    valid.funcResetNamed, valid.resetIfwidth⟩
  atRest := nofun
  emits := nofun
  consistent := nofun

/-- Settles O51: the state after reset is a block just constructed under the default parameters. -/
theorem invariantHoldsAtReset : Obligations.InvariantHoldsAtReset :=
  State.inv_constructed (s := State.noInstance) defaultParametersAreValid rfl rfl 2 3 4

/-! ## What each answer keeps -/

namespace State.Inv

variable {s : State} (h : s.Inv)
include h

theorem steady : s.Steady := (State.inv_iff.mp h).1

theorem funcLegal : FuncLegal s.cfg s.func := ⟨h.legal.funcNamed, h.legal.ifwidth⟩

/-- The host's list and the returned values are in no part of the invariant. -/
theorem withHost (rs : List Request) (vs : List Nat) : ({ s with program := rs, returned := vs } : State).Inv where
  valid := h.valid
  resting := ⟨h.resting.whole, h.resting.idle, h.resting.noFrame, h.resting.noIndex, h.resting.closed⟩
  legal := ⟨h.legal.together, h.legal.entryInit, h.legal.ctrlNamed, h.legal.funcNamed, h.legal.ifwidth⟩
  atRest := h.atRest
  emits := h.emits
  consistent := h.consistent

theorem waited (n : Nat) : (s.waited n).Inv := by
  refine State.inv_iff.mpr ⟨h.steady.waited n, State.shadowConsistent_iff.mpr fun c e ctrl entry => ?_⟩
  rw [State.framesOf_waited]
  exact State.shadowConsistent_iff.mp h.consistent c e ctrl entry

/-- A frame that is no register command. -/
theorem sent_quiet {w : FrameWord} (emittable : Emittable s.cfg w)
    (quiet : rowValues (decodeFrame s.cfg w) = (none, none, none)) : (s.sent w).Inv := by
  refine State.inv_iff.mpr ⟨h.steady.sent emittable, State.shadowConsistent_iff.mpr fun c e ctrl entry => ?_⟩
  rw [State.framesOf_sent, State.sent_cfg, lastValues_concat_quiet quiet]
  exact State.shadowConsistent_iff.mp h.consistent c e ctrl entry

omit h in
theorem sentAll_quiet {ws : List FrameWord} {s : State} (h : s.Inv) (emittable : ∀ w ∈ ws, Emittable s.cfg w)
    (quiet : ∀ w ∈ ws, rowValues (decodeFrame s.cfg w) = (none, none, none)) : (s.sentAll ws).Inv := by
  induction ws generalizing s with
  | nil => exact h
  | cons w ws ih =>
    rw [List.forall_mem_cons] at emittable quiet
    exact ih (h.sent_quiet emittable.1 quiet.1) emittable.2 quiet.2

/-- A toggle sends the CTRL it has written (43_toggles.md R90). -/
theorem toggled {c v : Byte} (written : s.ctrl = .val c) (named : v &&& ~~~s.cfg.ctrlBits = 0) : (s.toggled v).Inv := by
  obtain ⟨entry, lines⟩ := h.legal.together
  have legal : ({ s with ctrl := .val v } : State).RegistersLegal :=
    { together := by simpa [written] using And.intro entry lines
      entryInit := h.legal.entryInit
      ctrlNamed := fun _ same => by cases same; exact named
      funcNamed := h.legal.funcNamed
      ifwidth := h.legal.ifwidth }
  refine State.inv_iff.mpr ⟨(h.steady.written legal).sent (.displayControl v named),
    State.shadowConsistent_iff.mpr fun c' e ctrl entry => ?_⟩
  have before := State.shadowConsistent_iff.mp h.consistent c e written entry
  cases ctrl
  rw [State.toggled, State.framesOf_sent, State.sent_cfg, lastValues_concat (rowValues_ctrl h.valid named), before]
  rfl

/-- `setBrightness` sends the FUNC it has written (45_brightness.md R101). -/
theorem brightened {v : Byte} (func : FuncLegal s.cfg v) : (s.brightened v).Inv := by
  have legal : ({ s with func := v } : State).RegistersLegal :=
    ⟨h.legal.together, h.legal.entryInit, h.legal.ctrlNamed, func.1, func.2⟩
  refine State.inv_iff.mpr ⟨(h.steady.written legal).sent (.functionSet v func.1 func.2),
    State.shadowConsistent_iff.mpr fun c e ctrl entry => ?_⟩
  have before := State.shadowConsistent_iff.mp h.consistent c e ctrl entry
  rw [State.brightened, State.framesOf_sent, State.sent_cfg, lastValues_concat (rowValues_func h.valid func.1), before]
  rfl

/-- `begin` writes CTRL, ENTRY and LINES together and sends all three shadow registers (42_init.md R86). -/
theorem broughtUp (rows : Byte) : (s.broughtUp rows).Inv := by
  have func := h.funcLegal.withLineCount h.valid rows
  have ctrl := h.valid.ctrlInitNamed
  have entry := h.valid.entryInitNamed
  have legal : (s.initRegisters rows).RegistersLegal :=
    { together := by simp
      entryInit := fun _ same => by cases same; rfl
      ctrlNamed := fun _ same => by cases same; exact ctrl
      funcNamed := func.1
      ifwidth := func.2 }
  have clearFrame : Emittable s.cfg _ := .clearDisplay
  have ctrlFrame : Emittable s.cfg _ := .displayControl _ ctrl
  have entryFrame : Emittable s.cfg _ := .entryModeSet
  have funcFrame : Emittable s.cfg _ := .functionSet _ func.1 func.2
  have powered := (h.steady.written legal).waited s.cfg.tPowerup
  have cleared := (powered.sent clearFrame).waited s.cfg.tClear
  have displayed := (cleared.sent ctrlFrame).waited s.cfg.tCmd
  have entered := (displayed.sent entryFrame).waited s.cfg.tCmd
  have steady : (s.broughtUp rows).Steady := (entered.sent funcFrame).waited s.cfg.tCmd
  refine State.inv_iff.mpr ⟨steady, State.shadowConsistent_iff.mpr fun c e isCtrl isEntry => ?_⟩
  rw [State.broughtUp_ctrl] at isCtrl
  rw [State.broughtUp_entry] at isEntry
  cases isCtrl
  cases isEntry
  have oneByOne (frames : List FrameWord) (w₁ w₂ w₃ w₄ : FrameWord) :
      frames ++ [w₁, w₂, w₃, w₄] = frames ++ [w₁] ++ [w₂] ++ [w₃] ++ [w₄] := by simp
  rw [State.framesOf_broughtUp, State.broughtUp_cfg, State.broughtUp_func, oneByOne,
    lastValues_concat (rowValues_func h.valid func.1), lastValues_concat (rowValues_entry h.valid entry),
    lastValues_concat (rowValues_ctrl h.valid ctrl)]
  rfl

end State.Inv

/-- Every host operation keeps the invariant. -/
theorem Answers.inv {s t : State} {i : Instr} (answer : Answers s i t) (host : i.isHostOp = true) (h : s.Inv) :
    t.Inv := by
  cases answer with
  | inner word => rw [isHostOp_of_instrWord word] at host; cases host
  | construct distinct => exact State.inv_constructed h.valid h.resting.whole h.resting.idle _ _ _
  | begin cols rows => exact h.broughtUp rows
  | clear => exact (h.sent_quiet .clearDisplay (rowValues_clear h.valid)).waited _
  | home => exact h.sent_quiet .returnHome (rowValues_home h.valid)
  | toggle change written => exact h.toggled written (toggleChange_named change (h.legal.ctrlNamed _ written))
  | setCursor col row =>
    exact h.sent_quiet (.setDdramAddr _) (congrArg rowValues (decodeFrame_setCursor h.valid col row))
  | setBrightness level => exact h.brightened (h.funcLegal.withBrightness h.valid level)
  | createChar location eight =>
    exact h.sentAll_quiet
      (List.forall_mem_append.mpr
        ⟨emittable_glyphWords _ _ _, List.forall_mem_singleton.mpr (emittable_tailWord _)⟩)
      (List.forall_mem_append.mpr
        ⟨rowValues_glyphWords h.valid _ _, List.forall_mem_singleton.mpr (rowValues_tailWord h.valid)⟩)
  | write byte =>
    exact (h.sent_quiet (.dataWrite byte) (congrArg rowValues (h.valid.decodeFrame_data byte))).withHost s.program _

/-- Settles O52: an idle block stays as it is or runs the host operation its next request decodes to. -/
theorem stepKeepsTheInvariant : Obligations.StepKeepsTheInvariant := by
  unfold Obligations.StepKeepsTheInvariant
  intro s t h next
  obtain ⟨runs, -, -, -, stays⟩ := stepRunsTheDecodedInstruction
  cases program : s.program with
  | nil =>
    cases next.symm.trans (stays s h.resting.idle program)
    exact h
  | cons r rs =>
    cases decoded : decodeRequest r with
    | error e => simp [step, h.resting.idle, program, decoded] at next
    | ok i =>
      rw [runs s r rs i h.resting.idle h.resting.whole program decoded] at next
      exact (answers_of_exec next).inv (decodeRequest_ok s.cfg decoded).1 (h.withHost rs s.returned)

end Sys2Proof.Machine
end
